-- ==== Sys2Proof/Word.lean ====
section
/-! DEFINITION. The widths of the machine's data: bytes, words, nibbles, register indices (spec 00_scope.md R7, R8). -/

namespace Sys2Proof

/-- A V register, a timer, a memory byte: `XLEN = 8` (00_scope.md R7). -/
abbrev Byte := BitVec 8

/-- `pc`, I, a stack entry, an instruction word: 16 bits (00_scope.md R7). -/
abbrev Word := BitVec 16

/-- One of the four 4-bit fields of an instruction word (00_scope.md R8). -/
abbrev Nibble := BitVec 4

/-- A 12-bit immediate `NNN` (30_encoding.md R82). -/
abbrev Imm12 := BitVec 12

/-- The index of a V register, 0..15; every 4-bit field names one (10_state.md R21). -/
abbrev Reg := Fin 16

/-- The index of VF, the register that doubles as the flag (10_state.md R22). -/
abbrev VF : Reg := 15

end Sys2Proof
end

