-- ==== Sys2Proof/Config.lean ====
section
/-! DEFINITION. What the spec leaves to the implementation (00_scope.md R7): the parameters a machine is built with,
the constants of the layout, and the free values of the random source and of the key pick. -/

namespace Sys2Proof

/-- `FAULT_POLICY`: what the driver does after a fault (60_exceptions.md R238). -/
inductive FaultPolicy
  /-- `halt`: the fault is latched and the CORE is never invoked again. -/
  | halt
  /-- `skip`: the driver advances `pc` by 2 and goes on, recording nothing. -/
  | skipWord
  /-- `continue`: the driver leaves the state as it is and goes on. -/
  | logAndContinue
deriving DecidableEq, Repr

/-- `DIGIT_RANGE` and `KEY_RANGE`: the treatment of a register value above 15 (93_implementation_defined.md U7, U8). -/
inductive RangePolicy
  /-- `mask4`: the low nibble is used. -/
  | mask4
  /-- `fault`: the instruction raises `OperandRangeFault`. -/
  | fault
deriving DecidableEq, Repr

/-- The OPEN parameters of 00_scope.md R7 that a machine is built with; the field defaults are the spec's defaults.
`INIT_DISPLAY` and the memory image are arguments of a launch (`Machine.Launch`). Log 1. -/
structure Config where
  /-- `MEM_SIZE`, 4096 to 65536 (decision D10). -/
  memSize : Nat := 4096
  /-- `STACK_DEPTH`; `none` is `unbounded`, the document's value (decision D4). -/
  stackDepth : Option Nat := none
  /-- `FAULT_POLICY` (decision D5). -/
  faultPolicy : FaultPolicy := .halt
  /-- `DIGIT_RANGE`, of FX29 (decision D13). -/
  digitRange : RangePolicy := .mask4
  /-- `KEY_RANGE`, of EX9E and EXA1 (decision D14). -/
  keyRange : RangePolicy := .mask4
deriving DecidableEq, Repr

/-- The values `MEM_SIZE` may take (00_scope.md R7). -/
abbrev Config.wf (c : Config) : Prop := 4096 ≤ c.memSize ∧ c.memSize ≤ 65536

/-- `PROGRAM_BASE`: the reset `pc` and the load address (00_scope.md R7). -/
def programBase : Nat := 0x200

/-- `FONT_BASE`: the address of glyph 0 (00_scope.md R7). -/
def fontBase : Nat := 0x000

/-- `GLYPH_BYTES`: bytes per glyph (00_scope.md R7). -/
def glyphBytes : Nat := 5

/-- FREE VALUE. The byte the random source delivers at a draw for which no byte was supplied (42_register_immediate.md
R152: "any of the 256 values at each execution"). Its argument is the number of the draw. Log 7. -/
opaque Config.freeByte : Nat → Byte

/-- FREE VALUE. Which of several pressed keys FX0A takes at a draw for which no choice was supplied
(45_display_timer_key.md R213). Its argument is the number of the draw. Log 8. -/
opaque Config.freePick : Nat → Nat

end Sys2Proof
end

