-- ==== Sys2Proof/Syntax.lean ====
section
/-! DEFINITION. The instructions: one constructor per row of spec/opcode_table.json, in the table's order
(30_encoding.md R86), with the operands of 30_encoding.md R82 and R84. -/

namespace Sys2Proof

/-- An instruction. `x`, `y` are register indices, `nn` an 8-bit, `nnn` a 12-bit immediate, `n` the row count of DRW.
A don't-care operand (`nnn` of SYS, `y` of SHR and SHL; 30_encoding.md R90) is kept, so that encoding loses no bit. -/
inductive Instr
  /-- 00E0 CLS -/
  | cls
  /-- 00EE RET -/
  | ret
  /-- 0NNN SYS NNN -/
  | sys (nnn : Imm12)
  /-- 1NNN JP NNN -/
  | jp (nnn : Imm12)
  /-- 2NNN CALL NNN -/
  | call (nnn : Imm12)
  /-- 3XNN SE Vx, NN -/
  | seImm (x : Reg) (nn : Byte)
  /-- 4XNN SNE Vx, NN -/
  | sneImm (x : Reg) (nn : Byte)
  /-- 5XY0 SE Vx, Vy -/
  | seReg (x y : Reg)
  /-- 6XNN LD Vx, NN -/
  | ldImm (x : Reg) (nn : Byte)
  /-- 7XNN ADD Vx, NN -/
  | addImm (x : Reg) (nn : Byte)
  /-- 8XY0 LD Vx, Vy -/
  | ldReg (x y : Reg)
  /-- 8XY1 OR Vx, Vy -/
  | orReg (x y : Reg)
  /-- 8XY2 AND Vx, Vy -/
  | andReg (x y : Reg)
  /-- 8XY3 XOR Vx, Vy -/
  | xorReg (x y : Reg)
  /-- 8XY4 ADD Vx, Vy -/
  | addReg (x y : Reg)
  /-- 8XY5 SUB Vx, Vy -/
  | subReg (x y : Reg)
  /-- 8XY6 SHR Vx (`y` ignored) -/
  | shr (x y : Reg)
  /-- 8XY7 SUBN Vx, Vy -/
  | subnReg (x y : Reg)
  /-- 8XYE SHL Vx (`y` ignored) -/
  | shl (x y : Reg)
  /-- 9XY0 SNE Vx, Vy -/
  | sneReg (x y : Reg)
  /-- ANNN LD I, NNN -/
  | ldI (nnn : Imm12)
  /-- BNNN JP V0, NNN -/
  | jpV0 (nnn : Imm12)
  /-- CXNN RND Vx, NN -/
  | rnd (x : Reg) (nn : Byte)
  /-- DXYN DRW Vx, Vy, N -/
  | drw (x y : Reg) (n : Nibble)
  /-- EX9E SKP Vx -/
  | skp (x : Reg)
  /-- EXA1 SKNP Vx -/
  | sknp (x : Reg)
  /-- FX07 LD Vx, DT -/
  | ldVxDT (x : Reg)
  /-- FX0A LD Vx, K -/
  | ldVxK (x : Reg)
  /-- FX15 LD DT, Vx -/
  | ldDTVx (x : Reg)
  /-- FX18 LD ST, Vx -/
  | ldSTVx (x : Reg)
  /-- FX1E ADD I, Vx -/
  | addI (x : Reg)
  /-- FX29 LD F, Vx -/
  | ldF (x : Reg)
  /-- FX33 LD B, Vx -/
  | ldB (x : Reg)
  /-- FX55 LD [I], Vx -/
  | ldMemVx (x : Reg)
  /-- FX65 LD Vx, [I] -/
  | ldVxMem (x : Reg)
deriving DecidableEq, Repr

end Sys2Proof
end

