-- ==== Sys2Proof/Decode.lean ====
section
/-! DEFINITION. Encoding and decoding of the 16-bit instruction word (spec 30_encoding.md): nibbles and immediates,
the two-level dispatch, the opcode map as a table, the encoder, and the host's view of the decoder. -/

namespace Sys2Proof

/-! ### Nibbles and immediates (30_encoding.md R80, R82) -/

/-- `n1 = w[15:12]`, the family selector. -/
def nib1 (w : Word) : Nibble := w.extractLsb' 12 4

/-- `n2 = w[11:8]`. -/
def nib2 (w : Word) : Nibble := w.extractLsb' 8 4

/-- `n3 = w[7:4]`. -/
def nib3 (w : Word) : Nibble := w.extractLsb' 4 4

/-- `n4 = w[3:0]`. -/
def nib4 (w : Word) : Nibble := w.extractLsb' 0 4

/-- The word with the four given nibbles, `n1` on top. -/
def ofNibbles (n1 n2 n3 n4 : Nibble) : Word := n1 ++ n2 ++ n3 ++ n4

/-- Immediate assembly (30_encoding.md R82): shift the accumulator left by 4 and or the next nibble in, in order. -/
def assembleNibbles (ns : List Nibble) : Nat := ns.foldl (fun acc a => (acc <<< 4) ||| a.toNat) 0

/-- `NN`, from `n3` and `n4`. -/
def immNN (w : Word) : Byte := BitVec.ofNat 8 (assembleNibbles [nib3 w, nib4 w])

/-- `NNN`, from `n2`, `n3` and `n4`. -/
def immNNN (w : Word) : Imm12 := BitVec.ofNat 12 (assembleNibbles [nib2 w, nib3 w, nib4 w])

/-- A nibble as a register index (30_encoding.md R84). -/
def regOfNibble (n : Nibble) : Reg := ⟨n.toNat, n.isLt⟩

/-- A register index as a nibble. -/
def nibbleOfReg (r : Reg) : Nibble := BitVec.ofNat 4 r.val

/-- `X = n2`. -/
def regX (w : Word) : Reg := regOfNibble (nib2 w)

/-- `Y = n3`. -/
def regY (w : Word) : Reg := regOfNibble (nib3 w)

/-- The word of two bytes, the byte at the lower address on top (20_memory.md R65). -/
def wordOfBytes (hi lo : Byte) : Word := hi ++ lo

/-- The byte stored at the lower address, `w[15:8]`. -/
def highByte (w : Word) : Byte := w.extractLsb' 8 8

/-- The byte stored at the higher address, `w[7:0]`. -/
def lowByte (w : Word) : Byte := w.extractLsb' 0 8

/-! ### The decoder (30_encoding.md R85 to R89) -/

/-- What a word dispatches to: one of the 35 rows, or `UnsupportedOpcode`, which carries the raw word (R88). -/
inductive Decoded
  /-- The word is this instruction. -/
  | instr (i : Instr)
  /-- No row matches: `UnsupportedOpcode(w)` (60_exceptions.md R231). -/
  | unsupportedOpcode (w : Word)
deriving DecidableEq, Repr

/-- Level 2 of family 8: the ALU function is `n4` (43_alu.md R170). -/
def decodeAlu (w : Word) : Decoded :=
  match nib4 w with
  | 0x0#4 => .instr (.ldReg (regX w) (regY w))
  | 0x1#4 => .instr (.orReg (regX w) (regY w))
  | 0x2#4 => .instr (.andReg (regX w) (regY w))
  | 0x3#4 => .instr (.xorReg (regX w) (regY w))
  | 0x4#4 => .instr (.addReg (regX w) (regY w))
  | 0x5#4 => .instr (.subReg (regX w) (regY w))
  | 0x6#4 => .instr (.shr (regX w) (regY w))
  | 0x7#4 => .instr (.subnReg (regX w) (regY w))
  | 0xE#4 => .instr (.shl (regX w) (regY w))
  | _ => .unsupportedOpcode w

/-- Level 2 of family E: the pair `(n3, n4)`. -/
def decodeKey (w : Word) : Decoded :=
  match nib3 w, nib4 w with
  | 0x9#4, 0xE#4 => .instr (.skp (regX w))
  | 0xA#4, 0x1#4 => .instr (.sknp (regX w))
  | _, _ => .unsupportedOpcode w

/-- Level 2 of family F: the pair `(n3, n4)`. -/
def decodeMisc (w : Word) : Decoded :=
  match nib3 w, nib4 w with
  | 0x0#4, 0x7#4 => .instr (.ldVxDT (regX w))
  | 0x0#4, 0xA#4 => .instr (.ldVxK (regX w))
  | 0x1#4, 0x5#4 => .instr (.ldDTVx (regX w))
  | 0x1#4, 0x8#4 => .instr (.ldSTVx (regX w))
  | 0x1#4, 0xE#4 => .instr (.addI (regX w))
  | 0x2#4, 0x9#4 => .instr (.ldF (regX w))
  | 0x3#4, 0x3#4 => .instr (.ldB (regX w))
  | 0x5#4, 0x5#4 => .instr (.ldMemVx (regX w))
  | 0x6#4, 0x5#4 => .instr (.ldVxMem (regX w))
  | _, _ => .unsupportedOpcode w

/-- Level 2 of family 0: the whole of `(n2, n3, n4)`, with the two exact words first (30_encoding.md R87). -/
def decodeZero (w : Word) : Decoded :=
  match nib2 w, nib3 w, nib4 w with
  | 0x0#4, 0xE#4, 0x0#4 => .instr .cls
  | 0x0#4, 0xE#4, 0xE#4 => .instr .ret
  | _, _, _ => .instr (.sys (immNNN w))

/-- The decoder: level 1 on `n1`, level 2 within the family (30_encoding.md R85). Total; it reads the word alone (R88).
The last arm is reached by no nibble: the sixteen before it are all there are. -/
def decode (w : Word) : Decoded :=
  match nib1 w with
  | 0x0#4 => decodeZero w
  | 0x1#4 => .instr (.jp (immNNN w))
  | 0x2#4 => .instr (.call (immNNN w))
  | 0x3#4 => .instr (.seImm (regX w) (immNN w))
  | 0x4#4 => .instr (.sneImm (regX w) (immNN w))
  | 0x5#4 => if nib4 w = 0 then .instr (.seReg (regX w) (regY w)) else .unsupportedOpcode w
  | 0x6#4 => .instr (.ldImm (regX w) (immNN w))
  | 0x7#4 => .instr (.addImm (regX w) (immNN w))
  | 0x8#4 => decodeAlu w
  | 0x9#4 => if nib4 w = 0 then .instr (.sneReg (regX w) (regY w)) else .unsupportedOpcode w
  | 0xA#4 => .instr (.ldI (immNNN w))
  | 0xB#4 => .instr (.jpV0 (immNNN w))
  | 0xC#4 => .instr (.rnd (regX w) (immNN w))
  | 0xD#4 => .instr (.drw (regX w) (regY w) (nib4 w))
  | 0xE#4 => decodeKey w
  | 0xF#4 => decodeMisc w
  | _ => .unsupportedOpcode w

/-- The decoder on two bytes of memory, the one at the lower address first (20_memory.md R65). -/
def decodeBytes (hi lo : Byte) : Decoded := decode (wordOfBytes hi lo)

/-! ### The encoder -/

/-- The word of the `NNN` form of family `f`. -/
def encNNN (f : Nibble) (nnn : Imm12) : Word :=
  ofNibbles f (nnn.extractLsb' 8 4) (nnn.extractLsb' 4 4) (nnn.extractLsb' 0 4)

/-- The word of the `XNN` form of family `f`. -/
def encXNN (f : Nibble) (x : Reg) (nn : Byte) : Word :=
  ofNibbles f (nibbleOfReg x) (nn.extractLsb' 4 4) (nn.extractLsb' 0 4)

/-- The word of the `XYF` and `XYN` forms of family `f`. -/
def encXY (f : Nibble) (x y : Reg) (n4 : Nibble) : Word :=
  ofNibbles f (nibbleOfReg x) (nibbleOfReg y) n4

/-- The word of the `XFF` form of family `f`. -/
def encXFF (f : Nibble) (x : Reg) (n3 n4 : Nibble) : Word := ofNibbles f (nibbleOfReg x) n3 n4

/-- The word of an instruction, from the forms and patterns of 30_encoding.md R81 and R86. -/
def encode : Instr → Word
  | .cls => ofNibbles 0x0 0x0 0xE 0x0
  | .ret => ofNibbles 0x0 0x0 0xE 0xE
  | .sys nnn => encNNN 0x0 nnn
  | .jp nnn => encNNN 0x1 nnn
  | .call nnn => encNNN 0x2 nnn
  | .seImm x nn => encXNN 0x3 x nn
  | .sneImm x nn => encXNN 0x4 x nn
  | .seReg x y => encXY 0x5 x y 0x0
  | .ldImm x nn => encXNN 0x6 x nn
  | .addImm x nn => encXNN 0x7 x nn
  | .ldReg x y => encXY 0x8 x y 0x0
  | .orReg x y => encXY 0x8 x y 0x1
  | .andReg x y => encXY 0x8 x y 0x2
  | .xorReg x y => encXY 0x8 x y 0x3
  | .addReg x y => encXY 0x8 x y 0x4
  | .subReg x y => encXY 0x8 x y 0x5
  | .shr x y => encXY 0x8 x y 0x6
  | .subnReg x y => encXY 0x8 x y 0x7
  | .shl x y => encXY 0x8 x y 0xE
  | .sneReg x y => encXY 0x9 x y 0x0
  | .ldI nnn => encNNN 0xA nnn
  | .jpV0 nnn => encNNN 0xB nnn
  | .rnd x nn => encXNN 0xC x nn
  | .drw x y n => encXY 0xD x y n
  | .skp x => encXFF 0xE x 0x9 0xE
  | .sknp x => encXFF 0xE x 0xA 0x1
  | .ldVxDT x => encXFF 0xF x 0x0 0x7
  | .ldVxK x => encXFF 0xF x 0x0 0xA
  | .ldDTVx x => encXFF 0xF x 0x1 0x5
  | .ldSTVx x => encXFF 0xF x 0x1 0x8
  | .addI x => encXFF 0xF x 0x1 0xE
  | .ldF x => encXFF 0xF x 0x2 0x9
  | .ldB x => encXFF 0xF x 0x3 0x3
  | .ldMemVx x => encXFF 0xF x 0x5 0x5
  | .ldVxMem x => encXFF 0xF x 0x6 0x5

/-! ### The opcode map as a table (30_encoding.md R86) -/

/-- The row of 30_encoding.md R86 an instruction belongs to, as `(match, mask)`. -/
def opcodeRow : Instr → Word × Word
  | .cls => (0x00E0, 0xFFFF)
  | .ret => (0x00EE, 0xFFFF)
  | .sys _ => (0x0000, 0xF000)
  | .jp _ => (0x1000, 0xF000)
  | .call _ => (0x2000, 0xF000)
  | .seImm _ _ => (0x3000, 0xF000)
  | .sneImm _ _ => (0x4000, 0xF000)
  | .seReg _ _ => (0x5000, 0xF00F)
  | .ldImm _ _ => (0x6000, 0xF000)
  | .addImm _ _ => (0x7000, 0xF000)
  | .ldReg _ _ => (0x8000, 0xF00F)
  | .orReg _ _ => (0x8001, 0xF00F)
  | .andReg _ _ => (0x8002, 0xF00F)
  | .xorReg _ _ => (0x8003, 0xF00F)
  | .addReg _ _ => (0x8004, 0xF00F)
  | .subReg _ _ => (0x8005, 0xF00F)
  | .shr _ _ => (0x8006, 0xF00F)
  | .subnReg _ _ => (0x8007, 0xF00F)
  | .shl _ _ => (0x800E, 0xF00F)
  | .sneReg _ _ => (0x9000, 0xF00F)
  | .ldI _ => (0xA000, 0xF000)
  | .jpV0 _ => (0xB000, 0xF000)
  | .rnd _ _ => (0xC000, 0xF000)
  | .drw _ _ _ => (0xD000, 0xF000)
  | .skp _ => (0xE09E, 0xF0FF)
  | .sknp _ => (0xE0A1, 0xF0FF)
  | .ldVxDT _ => (0xF007, 0xF0FF)
  | .ldVxK _ => (0xF00A, 0xF0FF)
  | .ldDTVx _ => (0xF015, 0xF0FF)
  | .ldSTVx _ => (0xF018, 0xF0FF)
  | .addI _ => (0xF01E, 0xF0FF)
  | .ldF _ => (0xF029, 0xF0FF)
  | .ldB _ => (0xF033, 0xF0FF)
  | .ldMemVx _ => (0xF055, 0xF0FF)
  | .ldVxMem _ => (0xF065, 0xF0FF)

/-- `NNN` in its place in a word. -/
def atNNN (nnn : Imm12) : Word := nnn.setWidth 16

/-- `NN` in its place in a word. -/
def atNN (nn : Byte) : Word := nn.setWidth 16

/-- `X << 8`. -/
def atX (x : Reg) : Word := BitVec.ofNat 16 (x.val <<< 8)

/-- `Y << 4`. -/
def atY (y : Reg) : Word := BitVec.ofNat 16 (y.val <<< 4)

/-- The operand bits of an instruction in their places, all others 0 (30_encoding.md R81). -/
def operandBits : Instr → Word
  | .cls | .ret => 0
  | .sys nnn | .jp nnn | .call nnn | .ldI nnn | .jpV0 nnn => atNNN nnn
  | .seImm x nn | .sneImm x nn | .ldImm x nn | .addImm x nn | .rnd x nn => atX x ||| atNN nn
  | .seReg x y | .ldReg x y | .orReg x y | .andReg x y | .xorReg x y | .addReg x y | .subReg x y | .shr x y
  | .subnReg x y | .shl x y | .sneReg x y => atX x ||| atY y
  | .drw x y n => atX x ||| atY y ||| n.setWidth 16
  | .skp x | .sknp x | .ldVxDT x | .ldVxK x | .ldDTVx x | .ldSTVx x | .addI x | .ldF x | .ldB x | .ldMemVx x
  | .ldVxMem x => atX x

/-! ### The host's view -/

/-- The instruction of a word given as a number, bit 0 the least significant bit of the word; `none` where the decoder
refuses it, or where `nbits` is longer than any instruction (30_encoding.md R80: every instruction has 16 bits). The
word is laid out as two bytes, the high one first, and given to the decoder. -/
def decodeTableWord (nbits w : Nat) : Option Instr :=
  if nbits ≤ 16 then
    match decodeBytes (highByte (BitVec.ofNat 16 (w % 2 ^ nbits))) (lowByte (BitVec.ofNat 16 (w % 2 ^ nbits))) with
    | .instr i => some i
    | .unsupportedOpcode _ => none
  else none

end Sys2Proof
end

