-- ==== Sys2Proof/Machine/State.lean ====
section
/-! DEFINITION. The machine state as plain data: everything the spec gives the machine (10_state.md R20), then the model's
own fields; the faults, the refusals, the external agents' moves and the state after reset. -/

namespace Sys2Proof.Machine

/-- The faults a cycle can end with (60_exceptions.md R230); each is the spec's typed outcome, precise and with the state
unchanged (R236), so answering it is safe. -/
inductive Fault
  /-- Code 1. Raised by decoding a word no row matches (R231); carries the raw word. Safe. -/
  | unsupportedOpcode (w : Word)
  /-- Code 2. Raised by 00EE on an empty stack (R232, decision D3). Safe. -/
  | stackUnderflow
  /-- Code 3. Raised by 2NNN on a full finite stack (R233, decision D4); carries the address of the CALL. Safe. -/
  | stackOverflow (a : Word)
  /-- Code 4. Raised by the fetch, FX33, FX55, FX65 and DXYN at an address at or above `MEM_SIZE` (R234, decision D11);
  carries the lowest such address. Safe. -/
  | memoryAccessFault (a : Nat)
  /-- Code 5. Raised by FX29, EX9E and EXA1 on a register value above 15, under the non-default `DIGIT_RANGE` or
  `KEY_RANGE` (R230, decisions D13 and D14); carries the value. Safe. -/
  | operandRangeFault (v : Byte)
deriving DecidableEq, Repr

/-- Why the model gives a step no meaning. -/
inductive Refusal
  /-- Raised by an arm of `exec` whose instruction has no meaning yet; no arm does. Safe. -/
  | notModelled (mnemonic : String)
  /-- Raised by a launch whose program or image does not fit below `MEM_SIZE`; 70_reset_and_hazards.md R262 (c): "a model
  refuses such a launch". Safe. -/
  | launchTooLarge
deriving DecidableEq, Repr

/-- Memory: the listed (address, byte) cells; what an unlisted address reads as is `unlistedByte` (Ops.lean). -/
abbrev Memory := List Host.Cell

/-- The display buffer: 32 rows of 64 one-bit cells; row 0 is at the top, and bit `x` of a row is the cell in column `x`,
column 0 at the left (10_state.md R31). Log 21. -/
abbrev Display := Vector (BitVec 64) 32

/-- The position of a display cell (10_state.md R31). -/
structure Pixel where
  /-- The column, 0 at the left. -/
  x : Fin 64
  /-- The row, 0 at the top. -/
  y : Fin 32
deriving DecidableEq, Repr

/-- A display with every cell 0. -/
def blankDisplay : Display := Vector.replicate 32 0

/-- What the loader brings to a session (70_reset_and_hazards.md R262): arbitrary bytes outside the program (the font among
them), the program, and the display's power-on contents. -/
structure Launch where
  /-- The bytes of memory outside the program: the font table and spare memory (10_state.md R45: "a launch parameter"). -/
  image : List Host.Cell
  /-- The program, loaded at 0x200 in file order. -/
  rom : List Byte
  /-- `INIT_DISPLAY` (00_scope.md R7). -/
  initDisplay : Display := blankDisplay
deriving DecidableEq, Repr

/-- One move of an agent (00_scope.md R5): the CORE's cycle, or what an external agent does between two cycles. -/
inductive Event
  /-- The driver performs one cycle (70_reset_and_hazards.md R270). -/
  | cycle
  /-- The driver's timer tick (60_exceptions.md R244). -/
  | tick
  /-- The input collaborator sets or clears one key flag (60_exceptions.md R245). -/
  | keyInput (k : Fin 16) (pressed : Bool)
  /-- A new ROM is loaded: a full reset (70_reset_and_hazards.md R260, R264). -/
  | load (l : Launch)
deriving DecidableEq, Repr

/-- The machine state (10_state.md R20), and after it the model's own fields. -/
structure State where
  /-- `V[0..15]` (R21, R22). -/
  v : Vector Byte 16
  /-- The index register I (R23). -/
  i : Word
  /-- The program counter (R24). -/
  pc : Word
  /-- The call stack, bottom first (R26). -/
  stack : List Word
  /-- `awaiting_key` (R32). -/
  awaitingKey : Option Reg
  /-- Memory (20_memory.md R60). -/
  memory : Memory
  /-- The display buffer (R31). -/
  disp : Display
  /-- The delay timer (R29). -/
  dt : Byte
  /-- The sound timer (R29). -/
  st : Byte
  /-- The key flags: bit `k` is `key[k]`, 1 when pressed (R30). -/
  key : BitVec 16
  /-- The driver's fault latch (R33). -/
  fault : Option Fault
  /-- MODEL. The parameters the machine was built with (R35); no step changes them. Log 1. -/
  cfg : Config
  /-- MODEL. The agents' moves to come, oldest first; after the last, the CORE alone moves. Log 6. -/
  schedule : List Event
  /-- MODEL. The bytes the random source will deliver, oldest first; after the last, free values. Log 7. -/
  randIn : List Byte
  /-- MODEL. The choices for the key pick, oldest first; after the last, free values. Log 8. -/
  pickIn : List Nat
  /-- MODEL. How many draws were made, the argument of the free values. Log 7. -/
  draws : Nat
deriving DecidableEq, Repr

/-- The machine right after reset (10_state.md R45). The fields the spec gives no reset value for hold the values named in
logs 1 to 8. -/
def State.reset : State where
  v := Vector.replicate 16 0
  i := 0
  pc := 0x200
  stack := []
  awaitingKey := none
  memory := []
  disp := blankDisplay
  dt := 0
  st := 0
  key := 0
  fault := none
  cfg := {}
  schedule := []
  randIn := []
  pickIn := []
  draws := 0

end Sys2Proof.Machine
end

