-- ==== Sys2Proof/Machine/Ops.lean ====
section
/-! DEFINITION. The named operations over the state: registers, memory, stack, display, fetch, and what the driver does with
the outcome of a transition. Every meaning is written over these. -/

namespace Sys2Proof.Machine

/-- The outcome of a transition or of a step. -/
abbrev Result := Host.Outcome State Fault Refusal

/-- Go on with the value, or end the transition with the fault: `raise F` of 00_scope.md R10. -/
def orFault {α : Type} (r : Except Fault α) (k : α → Result) : Result :=
  match r with
  | .error f => .fault f
  | .ok a => k a

/-! ### Registers (10_state.md R21 to R25, R29, R32, R33) -/

/-- `V[k]`. -/
def State.readV (s : State) (k : Reg) : Byte := s.v[k]

/-- `V[k] <- b`. -/
def State.writeV (s : State) (k : Reg) (b : Byte) : State := { s with v := s.v.set k b }

/-- `V[0..n-1] <- bs`, `n` the length of `bs`; the registers above keep their values (44_index_memory.md R195). -/
def State.writeVs (s : State) (bs : List Byte) : State :=
  { s with v := s.v.mapIdx fun k b => bs[k]?.getD b }

/-- The values of `V0..Vx`, ascending (44_index_memory.md R194). -/
def State.readVs (s : State) (x : Reg) : List Byte := s.v.toList.take (x.val + 1)

/-- `I <- w`. -/
def State.setI (s : State) (w : Word) : State := { s with i := w }

/-- `pc <- w`. -/
def State.setPc (s : State) (w : Word) : State := { s with pc := w }

/-- `pc <- (pc + 2) mod 65536` (10_state.md R25 (a)). Log 15. -/
def State.advance (s : State) : State := s.setPc (s.pc + 2)

/-- `pc <- (pc + (4 if c else 2)) mod 65536` (41_skips.md R136). Log 15. -/
def State.skipIf (s : State) (c : Bool) : State := s.setPc (s.pc + if c then 4 else 2)

/-- `DT <- b`. -/
def State.setDt (s : State) (b : Byte) : State := { s with dt := b }

/-- `ST <- b`. -/
def State.setSt (s : State) (b : Byte) : State := { s with st := b }

/-- `awaiting_key <- w`. -/
def State.setAwaiting (s : State) (w : Option Reg) : State := { s with awaitingKey := w }

/-- The driver's latch takes a fault (10_state.md R33). -/
def State.setFault (s : State) (f : Option Fault) : State := { s with fault := f }

/-- The moves still to come (the model's own field). -/
def State.setSchedule (s : State) (es : List Event) : State := { s with schedule := es }

/-! ### Memory (20_memory.md R60 to R66) -/

/-- The customary font table, glyph `d` at `5 * d` (93_implementation_defined.md G1). PRESUMED, unsafe. Log 2. -/
def fontTable : List Byte :=
  [0xF0, 0x90, 0x90, 0x90, 0xF0] ++ [0x20, 0x60, 0x20, 0x20, 0x70] ++ [0xF0, 0x10, 0xF0, 0x80, 0xF0] ++
  [0xF0, 0x10, 0xF0, 0x10, 0xF0] ++ [0x90, 0x90, 0xF0, 0x10, 0x10] ++ [0xF0, 0x80, 0xF0, 0x10, 0xF0] ++
  [0xF0, 0x80, 0xF0, 0x90, 0xF0] ++ [0xF0, 0x10, 0x20, 0x40, 0x40] ++ [0xF0, 0x90, 0xF0, 0x90, 0xF0] ++
  [0xF0, 0x90, 0xF0, 0x10, 0xF0] ++ [0xF0, 0x90, 0xF0, 0x90, 0x90] ++ [0xE0, 0x90, 0xE0, 0x90, 0xE0] ++
  [0xF0, 0x80, 0x80, 0x80, 0xF0] ++ [0xE0, 0x90, 0x90, 0x90, 0xE0] ++ [0xF0, 0x80, 0xF0, 0x80, 0xF0] ++
  [0xF0, 0x80, 0xF0, 0x80, 0x80]

/-- What an address that no cell lists reads as: the font table at `FONT_BASE`, and 0x00 elsewhere. PRESUMED (the font),
DESIGN CHOICE (0x00), unsafe. Log 2. -/
def unlistedByte (a : Nat) : Byte := fontTable.getD (a - fontBase) 0x00

/-- The byte at an address. -/
def Memory.read : Memory → Nat → Byte
  | [], a => unlistedByte a
  | (k, b) :: m, a => if a = k then b else Memory.read m a

/-- The cell `(a, b)` in front of `m`, unless an unlisted `a` reads as `b` anyway. -/
def Memory.put (a : Nat) (b : Byte) (m : Memory) : Memory := if b = unlistedByte a then m else (a, b) :: m

/-- Store one byte, keeping the canonical form. -/
def Memory.write : Memory → Nat → Byte → Memory
  | [], a, b => Memory.put a b []
  | (k, c) :: m, a, b =>
    if a < k then Memory.put a b ((k, c) :: m)
    else if a = k then Memory.put a b m
    else (k, c) :: Memory.write m a b

/-- Store bytes at ascending addresses. -/
def Memory.writeList (m : Memory) (base : Nat) : List Byte → Memory
  | [] => m
  | b :: bs => Memory.writeList (m.write base b) (base + 1) bs

/-- The canonical form: addresses strictly rising, and no cell equal to what its address reads as unlisted. -/
abbrev Memory.wf (m : Memory) : Prop :=
  m.Pairwise (fun c d => c.1 < d.1) ∧ ∀ c ∈ m, c.2 ≠ unlistedByte c.1

/-- Every listed address exists: it is below `MEM_SIZE`. -/
abbrev Memory.inside (m : Memory) (memSize : Nat) : Prop := ∀ c ∈ m, c.1 < memSize

/-- The byte at address `a`, without the check of R62. -/
def State.byteAt (s : State) (a : Nat) : Byte := s.memory.read a

/-- The memory array replaced. -/
def State.setMemory (s : State) (m : Memory) : State := { s with memory := m }

/-- Answer `r` if the `n` addresses from `base` on exist; otherwise `MemoryAccessFault` of the lowest that does not, which is
`max(base, MEM_SIZE)` (20_memory.md R64; no wrap: the addresses are natural numbers). Log 13. -/
def State.inMemory {α : Type} (s : State) (base n : Nat) (r : α) : Except Fault α :=
  if 0 < n ∧ s.cfg.memSize ≤ base + n - 1 then .error (.memoryAccessFault (max base s.cfg.memSize)) else .ok r

/-- `MemRead(a, 1)` (20_memory.md R62). -/
def State.memRead (s : State) (a : Nat) : Except Fault Byte := s.inMemory a 1 (s.byteAt a)

/-- `MemWrite(a, 1, b)` (20_memory.md R63). -/
def State.memWrite (s : State) (a : Nat) (b : Byte) : Except Fault State :=
  s.inMemory a 1 (s.setMemory (s.memory.write a b))

/-- The `n` bytes from `base` on, ascending; all or nothing (20_memory.md R64). -/
def State.readBytes (s : State) (base n : Nat) : Except Fault (List Byte) :=
  s.inMemory base n ((List.range n).map fun k => s.byteAt (base + k))

/-- Store `bs` from `base` on, ascending; all or nothing (20_memory.md R64). -/
def State.writeBytes (s : State) (base : Nat) (bs : List Byte) : Except Fault State :=
  s.inMemory base bs.length (s.setMemory (s.memory.writeList base bs))

/-- The driver's fetch: the two bytes at `pc` and `pc + 1`, big-endian, `pc + 1` without wrap (20_memory.md R65, R66). -/
def State.fetchWord (s : State) : Except Fault Word :=
  s.inMemory s.pc.toNat 2 (wordOfBytes (s.byteAt s.pc.toNat) (s.byteAt (s.pc.toNat + 1)))

/-! ### The call stack (10_state.md R26 to R28) -/

/-- The stack replaced. -/
def State.setStack (s : State) (ws : List Word) : State := { s with stack := ws }

/-- `push(w)`: append, or `StackOverflow(w)` when a finite stack is full (10_state.md R27). Log 11. -/
def State.push (s : State) (w : Word) : Except Fault State :=
  if s.cfg.stackDepth = some s.stack.length then .error (.stackOverflow w) else .ok (s.setStack (s.stack ++ [w]))

/-- `pop()`: the last entry and the stack without it, or `StackUnderflow` (10_state.md R28). Log 14. -/
def State.pop (s : State) : Except Fault (Word × State) :=
  match s.stack.getLast? with
  | none => .error .stackUnderflow
  | some w => .ok (w, s.setStack s.stack.dropLast)

/-! ### The display buffer (10_state.md R31) -/

/-- The display buffer replaced. -/
def State.setDisp (s : State) (d : Display) : State := { s with disp := d }

/-- The cell at a position. -/
def Display.cell (d : Display) (p : Pixel) : Bool := d[p.y].getLsbD p.x

/-- The cell at a position is exclusive-ored with 1. -/
def Display.flip (d : Display) (p : Pixel) : Display := d.set p.y (d[p.y] ^^^ BitVec.twoPow 64 p.x)

/-- The position of `disp[k]`, row-major: column `k % 64`, row `k / 64`. Log 21. -/
def Pixel.ofIndex (k : Fin 2048) : Pixel := ⟨⟨k.val % 64, by omega⟩, ⟨k.val / 64, by omega⟩⟩

/-- `disp[k]`. -/
def Display.at (d : Display) (k : Fin 2048) : Bool := Display.cell d (Pixel.ofIndex k)

/-! ### The key flags (10_state.md R30) -/

/-- The key flags replaced. -/
def State.setKeys (s : State) (k : BitVec 16) : State := { s with key := k }

/-- `key[k] = 1`. -/
def State.pressed (s : State) (k : Fin 16) : Bool := s.key.getLsbD k

/-- The pressed keys, ascending: the set `P` of 45_display_timer_key.md R213. -/
def State.pressedKeys (s : State) : List (Fin 16) := (List.finRange 16).filter s.pressed

/-! ### Draws: the values the environment is free to choose -/

/-- `rand8()`: the next supplied byte, or a free value (42_register_immediate.md R152). Log 7. -/
def State.rand8 (s : State) : Byte := s.randIn.headD (Config.freeByte s.draws)

/-- One byte of the random source is used up. -/
def State.useRand (s : State) : State := { s with randIn := s.randIn.tail, draws := s.draws + 1 }

/-- The number that decides a key pick: the next supplied one, or a free value (45_display_timer_key.md R213). Log 8. -/
def State.pickNumber (s : State) : Nat := s.pickIn.headD (Config.freePick s.draws)

/-- One key pick is used up. -/
def State.usePick (s : State) : State := { s with pickIn := s.pickIn.tail, draws := s.draws + 1 }

/-! ### After a transition (60_exceptions.md R236 to R238) -/

/-- The driver takes a fault: the machine has no trap entry (60_exceptions.md R237); what happens to the state is
`FAULT_POLICY` (R238). Logs 9, 10. -/
def State.takeFault (s : State) (f : Fault) : State :=
  match s.cfg.faultPolicy with
  | .halt => s.setFault (some f)
  | .skipWord => s.advance
  | .logAndContinue => s

/-- The driver installs the outcome of a transition of `s` (70_reset_and_hazards.md R270 step 5): a next state as it is; a
fault leaves `s`, and the policy is applied to it. -/
def settle (s : State) : Result → Result
  | .next t => .next t
  | .fault f => .next (s.takeFault f)
  | .refused r => .refused r

/-- No agent moves a machine whose fault is latched (60_exceptions.md R238): the step ends with that fault. Log 9. -/
def unlessLatched (s : State) (r : Result) : Result :=
  match s.fault with
  | some f => .fault f
  | none => r

end Sys2Proof.Machine
end

