-- ==== Sys2Proof/Machine/Agents.lean ====
section
/-! DEFINITION. What the agents outside the CORE do between two transitions (00_scope.md R5): the timer tick, the key input
and the loader. -/

namespace Sys2Proof.Machine

/-- Count down by one and stop at 0 (60_exceptions.md R244, 93_implementation_defined.md G4). PRESUMED. Log 22. -/
def countDown (b : Byte) : Byte := if b = 0 then 0 else b - 1

/-- One timer tick (60_exceptions.md R244). -/
def State.tickTimers (s : State) : State := (s.setDt (countDown s.dt)).setSt (countDown s.st)

/-- The key flags with flag `k` set or cleared (60_exceptions.md R245). -/
def State.inputKey (s : State) (k : Fin 16) (pressed : Bool) : State :=
  s.setKeys (if pressed then s.key ||| BitVec.twoPow 16 k else s.key &&& ~~~ BitVec.twoPow 16 k)

/-- The memory a loader leaves: the image's bytes, then the program from 0x200 upward, in file order
(70_reset_and_hazards.md R262). -/
def Launch.memory (l : Launch) : Memory :=
  Memory.writeList (l.image.foldl (fun m c => Memory.write m c.1 c.2) []) programBase l.rom

/-- The launch fits below `MEM_SIZE` (70_reset_and_hazards.md R262 (c)). -/
abbrev Launch.fits (l : Launch) (memSize : Nat) : Prop :=
  programBase + l.rom.length ≤ memSize ∧ ∀ c ∈ l.image, c.1 < memSize

/-- A fresh Machine State (10_state.md R45, 70_reset_and_hazards.md R260, R264): every register at its reset value, the
launch's memory and display. Parameters, key flags and the environment's supplies are no part of it and stay. Log 27. -/
def State.boot (s : State) (l : Launch) : State :=
  { State.reset with
    memory := l.memory, disp := l.initDisplay, key := s.key, cfg := s.cfg, schedule := s.schedule, randIn := s.randIn,
    pickIn := s.pickIn, draws := s.draws }

/-- A new session starts; a launch that does not fit is refused. Log 26. -/
def loadSession (l : Launch) (s : State) : Result :=
  if l.fits s.cfg.memSize then .next (s.boot l) else .refused .launchTooLarge

end Sys2Proof.Machine
end

