-- ==== Sys2Proof/Machine/Operands.lean ====
section
/-! DEFINITION. The operand forms: immediates widened, register values narrowed to a nibble, digits, jump targets. -/

namespace Sys2Proof.Machine

/-- `zext_16(NNN)` (30_encoding.md R83). -/
def zextNNN (nnn : Imm12) : Word := nnn.setWidth 16

/-- `zext_16(V[x])`. -/
def zextByte (b : Byte) : Word := b.setWidth 16

/-- `v & 0x0F`, as an index. -/
def lowNibble (v : Byte) : Fin 16 := regOfNibble (v.extractLsb' 0 4)

/-- A register value used as a hex digit or a key number: its low nibble, or `OperandRangeFault(v)` for `v > 15` under the
`fault` policy (93_implementation_defined.md U7, U8). Log 18. -/
def nibbleOperand (p : RangePolicy) (v : Byte) : Except Fault (Fin 16) :=
  match p with
  | .mask4 => .ok (lowNibble v)
  | .fault => if 15 < v.toNat then .error (.operandRangeFault v) else .ok (lowNibble v)

/-- The key number of EX9E and EXA1 (41_skips.md R134, R135). -/
def State.keyOperand (s : State) (x : Reg) : Except Fault (Fin 16) := nibbleOperand s.cfg.keyRange (s.readV x)

/-- The hex digit of FX29 (44_index_memory.md R192). -/
def State.digitOperand (s : State) (x : Reg) : Except Fault (Fin 16) := nibbleOperand s.cfg.digitRange (s.readV x)

/-- `FONT_BASE + GLYPH_BYTES * d` (44_index_memory.md R192). Log 18. -/
def glyphAddress (d : Fin 16) : Word := BitVec.ofNat 16 (fontBase + glyphBytes * d.val)

/-- `(zext_16(NNN) + zext_16(V[0])) mod 65536` (40_control_transfer.md R114). -/
def State.offsetTarget (s : State) (nnn : Imm12) : Word := zextNNN nnn + zextByte (s.readV 0)

/-- The decimal digits of a byte, hundreds, tens, ones (44_index_memory.md R193). -/
def bcdDigits (v : Byte) : List Byte :=
  [BitVec.ofNat 8 (v.toNat / 100), BitVec.ofNat 8 (v.toNat / 10 % 10), BitVec.ofNat 8 (v.toNat % 10)]

/-- The element of the pressed set that a number picks: every element is picked by some number
(45_display_timer_key.md R213). Log 8. -/
def pickFrom (ps : List (Fin 16)) (n : Nat) : Fin 16 := ps.getD (n % ps.length) 0

end Sys2Proof.Machine
end

