-- ==== Sys2Proof/Machine/Flags.lean ====
section
/-! DEFINITION. The six flag values VF is written with (10_state.md R22, 43_alu.md R169). -/

namespace Sys2Proof.Machine

/-- 1 or 0. -/
def flagByte (c : Bool) : Byte := if c then 1 else 0

/-- 8XY4: 1 exactly when `a + b > 255` (43_alu.md R164). -/
def carryFlag (a b : Byte) : Byte := flagByte (decide (255 < a.toNat + b.toNat))

/-- 8XY5 with `a - b`, 8XY7 with the operands exchanged: 0 exactly when `a < b`, the complement of borrow
(43_alu.md R165, R167, R169). -/
def notBorrowFlag (a b : Byte) : Byte := flagByte (decide (b.toNat ≤ a.toNat))

/-- 8XY6: the bit shifted out, 0 or 1 (43_alu.md R166). -/
def shiftRightFlag (a : Byte) : Byte := a &&& 0x01

/-- 8XYE: bit 7, in place: 0x80 or 0x00, not 1 or 0 (43_alu.md R168). -/
def shiftLeftFlag (a : Byte) : Byte := a &&& 0x80

/-- DXYN: 1 if a cell went from 1 to 0, else 0 (45_display_timer_key.md R211). Log 20. -/
def collisionFlag (hit : Bool) : Byte := flagByte hit

end Sys2Proof.Machine
end

