-- ==== Sys2Proof/Machine/Alu.lean ====
section
/-! DEFINITION. The register-register ALU (43_alu.md). All operands are read from the state before the instruction; the two
writes of a flag-writing instruction stand in the order the spec lists them, so that the later one stays when both name VF
(00_scope.md R11, 43_alu.md R172). Log 17. -/

namespace Sys2Proof.Machine

/-- `V[x] <- result`, then `V[15] <- flag`, then `pc + 2` (8XY4, 8XY5, 8XY7). -/
def State.resultThenFlag (s : State) (x : Reg) (result flag : Byte) : State :=
  ((s.writeV x result).writeV VF flag).advance

/-- `V[15] <- flag`, then `V[x] <- result`, then `pc + 2` (8XY6, 8XYE). -/
def State.flagThenResult (s : State) (x : Reg) (flag result : Byte) : State :=
  ((s.writeV VF flag).writeV x result).advance

/-- 8XY0 LD Vx, Vy (43_alu.md R160). -/
def execLdReg (x y : Reg) (s : State) : Result := .next (s.writeV x (s.readV y)).advance

/-- 8XY1 OR Vx, Vy (43_alu.md R161): VF is not written. -/
def execOrReg (x y : Reg) (s : State) : Result := .next (s.writeV x (s.readV x ||| s.readV y)).advance

/-- 8XY2 AND Vx, Vy (43_alu.md R162). -/
def execAndReg (x y : Reg) (s : State) : Result := .next (s.writeV x (s.readV x &&& s.readV y)).advance

/-- 8XY3 XOR Vx, Vy (43_alu.md R163). -/
def execXorReg (x y : Reg) (s : State) : Result := .next (s.writeV x (s.readV x ^^^ s.readV y)).advance

/-- 8XY4 ADD Vx, Vy (43_alu.md R164). -/
def execAddReg (x y : Reg) (s : State) : Result :=
  .next (s.resultThenFlag x (s.readV x + s.readV y) (carryFlag (s.readV x) (s.readV y)))

/-- 8XY5 SUB Vx, Vy (43_alu.md R165). -/
def execSubReg (x y : Reg) (s : State) : Result :=
  .next (s.resultThenFlag x (s.readV x - s.readV y) (notBorrowFlag (s.readV x) (s.readV y)))

/-- 8XY6 SHR Vx (43_alu.md R166): `y` is ignored, the shift is logical. -/
def execShr (x _y : Reg) (s : State) : Result :=
  .next (s.flagThenResult x (shiftRightFlag (s.readV x)) (s.readV x >>> 1))

/-- 8XY7 SUBN Vx, Vy (43_alu.md R167): `V[y] - V[x]` into `V[x]`. -/
def execSubnReg (x y : Reg) (s : State) : Result :=
  .next (s.resultThenFlag x (s.readV y - s.readV x) (notBorrowFlag (s.readV y) (s.readV x)))

/-- 8XYE SHL Vx (43_alu.md R168): `y` is ignored, the flag is 0x80 or 0x00. -/
def execShl (x _y : Reg) (s : State) : Result :=
  .next (s.flagThenResult x (shiftLeftFlag (s.readV x)) (s.readV x <<< 1))

end Sys2Proof.Machine
end

