-- ==== Sys2Proof/Machine/Control.lean ====
section
/-! DEFINITION. Control transfer (40_control_transfer.md): RET, SYS, JP, CALL, JP V0. During a transition `pc` is the address
of the instruction being executed (10_state.md R24). -/

namespace Sys2Proof.Machine

/-- 00EE RET (40_control_transfer.md R110): pop the address of the matching CALL and go 2 past it. -/
def execRet (s : State) : Result :=
  orFault s.pop fun r => .next (r.2.setPc (r.1 + 2))

/-- 0NNN SYS (40_control_transfer.md R111): a no-operation that advances `pc`; `nnn` is ignored. -/
def execSys (_nnn : Imm12) (s : State) : Result := .next s.advance

/-- 1NNN JP (40_control_transfer.md R112). -/
def execJp (nnn : Imm12) (s : State) : Result := .next (s.setPc (zextNNN nnn))

/-- 2NNN CALL (40_control_transfer.md R113): push the address of this CALL. -/
def execCall (nnn : Imm12) (s : State) : Result :=
  orFault (s.push s.pc) fun t => .next (t.setPc (zextNNN nnn))

/-- BNNN JP V0 (40_control_transfer.md R114). -/
def execJpV0 (nnn : Imm12) (s : State) : Result := .next (s.setPc (s.offsetTarget nnn))

end Sys2Proof.Machine
end

