-- ==== Sys2Proof/Machine/Devices.lean ====
section
/-! DEFINITION. The instructions of the display, timer and key units (45_display_timer_key.md). -/

namespace Sys2Proof.Machine

/-! ### The display unit -/

/-- The cell that column `c` of sprite row `r` falls on, each axis wrapped for every pixel (R211 (b)). Log 20. -/
def spritePixel (x0 y0 : Byte) (r c : Nat) : Pixel :=
  ⟨⟨(x0.toNat + c) % 64, by omega⟩, ⟨(y0.toNat + r) % 32, by omega⟩⟩

/-- Bit `7 - c` of a sprite byte: bit 7 is the leftmost pixel (R211 (a)). PRESUMED. Log 20. -/
def spriteBit (b : Byte) (c : Nat) : Bool := b.getLsbD (7 - c)

/-- The cells that the set bits of one sprite row fall on, left to right. -/
def rowPixels (x0 y0 : Byte) (r : Nat) (b : Byte) : List Pixel :=
  ((List.range 8).filter (spriteBit b)).map (spritePixel x0 y0 r)

/-- The cells that the set bits of a sprite fall on, row by row, the first row being row `r`. -/
def spritePixels (x0 y0 : Byte) (r : Nat) : List Byte → List Pixel
  | [] => []
  | b :: bs => rowPixels x0 y0 r b ++ spritePixels x0 y0 (r + 1) bs

/-- One set pixel of a sprite: note a hit if its cell is 1, then flip the cell (the body of the loop of R211). -/
def drawPixel (a : Display × Bool) (p : Pixel) : Display × Bool := (Display.flip a.1 p, a.2 || Display.cell a.1 p)

/-- The loop of R211: the display after drawing, and whether a cell went from 1 to 0. -/
def drawSprite (d : Display) (x0 y0 : Byte) (rows : List Byte) : Display × Bool :=
  (spritePixels x0 y0 0 rows).foldl drawPixel (d, false)

/-- 00E0 CLS (R210). -/
def execCls (s : State) : Result := .next (s.setDisp blankDisplay).advance

/-- DXYN DRW Vx, Vy, N (R211): all sprite rows are read, and their addresses checked, before anything is drawn. -/
def execDrw (x y : Reg) (n : Nibble) (s : State) : Result :=
  orFault (s.readBytes s.i.toNat n.toNat) fun rows =>
    .next ((s.setDisp (drawSprite s.disp (s.readV x) (s.readV y) rows).1).writeV VF
      (collisionFlag (drawSprite s.disp (s.readV x) (s.readV y) rows).2)).advance

/-! ### The timer unit -/

/-- FX07 LD Vx, DT (R212). -/
def execLdVxDT (x : Reg) (s : State) : Result := .next (s.writeV x s.dt).advance

/-- FX15 LD DT, Vx (R216). -/
def execLdDTVx (x : Reg) (s : State) : Result := .next (s.setDt (s.readV x)).advance

/-- FX18 LD ST, Vx (R217). -/
def execLdSTVx (x : Reg) (s : State) : Result := .next (s.setSt (s.readV x)).advance

/-! ### The key unit -/

/-- A key was observed: `V[x] <- k`, `awaiting_key <- none`, `pc + 2` (R214). -/
def State.takeKey (s : State) (x : Reg) (k : Fin 16) : State :=
  ((s.writeV x (BitVec.ofNat 8 k.val)).setAwaiting none).advance

/-- The body of R214: sample the keys. With none pressed the machine waits, `pc` unchanged; with one, that key is taken; with
several, any one of them (R213). Level-sensitive: log 19. -/
def pollKeys (x : Reg) (s : State) : Result :=
  match s.pressedKeys with
  | [] => .next (s.setAwaiting (some x))
  | [k] => .next (s.takeKey x k)
  | k :: l :: ks => .next (s.usePick.takeKey x (pickFrom (k :: l :: ks) s.pickNumber))

/-- FX0A LD Vx, K (R214). -/
def execLdVxK (x : Reg) (s : State) : Result := pollKeys x s

end Sys2Proof.Machine
end

