-- ==== Sys2Proof/Machine/Immediate.lean ====
section
/-! DEFINITION. The register-immediate instructions (42_register_immediate.md). -/

namespace Sys2Proof.Machine

/-- 6XNN LD Vx, NN (42_register_immediate.md R150). -/
def execLdImm (x : Reg) (nn : Byte) (s : State) : Result := .next (s.writeV x nn).advance

/-- 7XNN ADD Vx, NN (42_register_immediate.md R151): wraps, writes no flag. -/
def execAddImm (x : Reg) (nn : Byte) (s : State) : Result := .next (s.writeV x (s.readV x + nn)).advance

/-- CXNN RND Vx, NN (42_register_immediate.md R153): one byte of the random source, masked. -/
def execRnd (x : Reg) (nn : Byte) (s : State) : Result := .next (s.useRand.writeV x (s.rand8 &&& nn)).advance

end Sys2Proof.Machine
end

