-- ==== Sys2Proof/Machine/Index.lean ====
section
/-! DEFINITION. The index register and the memory instructions (44_index_memory.md). A memory instruction checks every address
before its first write (20_memory.md R64) and leaves I as it is (44_index_memory.md R196). -/

namespace Sys2Proof.Machine

/-- ANNN LD I, NNN (44_index_memory.md R190). -/
def execLdI (nnn : Imm12) (s : State) : Result := .next (s.setI (zextNNN nnn)).advance

/-- FX1E ADD I, Vx (44_index_memory.md R191): 16-bit, no flag. Log 16. -/
def execAddI (x : Reg) (s : State) : Result := .next (s.setI (s.i + zextByte (s.readV x))).advance

/-- FX29 LD F, Vx (44_index_memory.md R192). -/
def execLdF (x : Reg) (s : State) : Result :=
  orFault (s.digitOperand x) fun d => .next (s.setI (glyphAddress d)).advance

/-- FX33 LD B, Vx (44_index_memory.md R193). -/
def execLdB (x : Reg) (s : State) : Result :=
  orFault (s.writeBytes s.i.toNat (bcdDigits (s.readV x))) fun t => .next t.advance

/-- FX55 LD [I], Vx (44_index_memory.md R194). -/
def execLdMemVx (x : Reg) (s : State) : Result :=
  orFault (s.writeBytes s.i.toNat (s.readVs x)) fun t => .next t.advance

/-- FX65 LD Vx, [I] (44_index_memory.md R195). -/
def execLdVxMem (x : Reg) (s : State) : Result :=
  orFault (s.readBytes s.i.toNat (x.val + 1)) fun bs => .next (s.writeVs bs).advance

end Sys2Proof.Machine
end

