-- ==== Sys2Proof/Machine/Skips.lean ====
section
/-! DEFINITION. The conditional skips (41_skips.md); they write nothing but `pc` (R136). -/

namespace Sys2Proof.Machine

/-- 3XNN SE Vx, NN (41_skips.md R130). -/
def execSeImm (x : Reg) (nn : Byte) (s : State) : Result := .next (s.skipIf (s.readV x == nn))

/-- 4XNN SNE Vx, NN (41_skips.md R131). -/
def execSneImm (x : Reg) (nn : Byte) (s : State) : Result := .next (s.skipIf (s.readV x != nn))

/-- 5XY0 SE Vx, Vy (41_skips.md R132). -/
def execSeReg (x y : Reg) (s : State) : Result := .next (s.skipIf (s.readV x == s.readV y))

/-- 9XY0 SNE Vx, Vy (41_skips.md R133). -/
def execSneReg (x y : Reg) (s : State) : Result := .next (s.skipIf (s.readV x != s.readV y))

/-- EX9E SKP Vx (41_skips.md R134): the key is the value of `V[x]`. -/
def execSkp (x : Reg) (s : State) : Result :=
  orFault (s.keyOperand x) fun k => .next (s.skipIf (s.pressed k))

/-- EXA1 SKNP Vx (41_skips.md R135). -/
def execSknp (x : Reg) (s : State) : Result :=
  orFault (s.keyOperand x) fun k => .next (s.skipIf (!s.pressed k))

end Sys2Proof.Machine
end

