-- ==== Sys2Proof/Machine/Step.lean ====
section
/-! DEFINITION. The step: one move of one agent. The CORE's cycle is 70_reset_and_hazards.md R270; the other agents move where
the schedule says so (20_memory.md R74). -/

namespace Sys2Proof.Machine

/-- Steps 2 to 4 of R270: fetch, decode, transition. The checks stand in the order of 60_exceptions.md R235. -/
def transition (s : State) : Result :=
  orFault s.fetchWord fun w =>
    match decode w with
    | .instr i => exec i s
    | .unsupportedOpcode w => .fault (.unsupportedOpcode w)

/-- Steps 1 to 5 of R270: a machine that awaits a key only polls (45_display_timer_key.md R215); any other performs a
transition, whose outcome the driver installs. -/
def coreCycle (s : State) : Result :=
  match s.awaitingKey with
  | some x => pollKeys x s
  | none => settle s (transition s)

/-- One move: of the agent the schedule names first, and of the CORE when it names none. A latched fault stops every move but
a load, which is a full reset (step 0 of R270, 10_state.md R33). Logs 6, 9. -/
def step (s : State) : Host.Outcome State Fault Refusal :=
  match s.schedule with
  | [] => unlessLatched s (coreCycle s)
  | .cycle :: es => unlessLatched s (coreCycle (s.setSchedule es))
  | .tick :: es => unlessLatched s (.next (s.setSchedule es).tickTimers)
  | .keyInput k p :: es => unlessLatched s (.next ((s.setSchedule es).inputKey k p))
  | .load l :: es => loadSession l (s.setSchedule es)

/-- The schedule with the CORE's cycle as its first move: as it is where that is so already. -/
def coreFirst (es : List Event) : List Event :=
  match es with
  | [] => []
  | .cycle :: rest => .cycle :: rest
  | e :: rest => .cycle :: e :: rest

/-- `s` with the given word as the one the next step fetches and runs: its two bytes, high byte first, at `pc`; no fault
latched, no key awaited, and the CORE the next to move. `pc` is left where it is, so `pc + 1` must exist. Log 25. -/
def State.withFetchWord (s : State) (nbits w : Nat) : State :=
  { s with
    memory := s.memory.writeList s.pc.toNat
      [highByte (BitVec.ofNat 16 (w % 2 ^ nbits)), lowByte (BitVec.ofNat 16 (w % 2 ^ nbits))]
    awaitingKey := none
    fault := none
    schedule := coreFirst s.schedule }

end Sys2Proof.Machine
end

