-- ==== Sys2Proof/Machine/Assembly.lean ====
section
/-! DEFINITION. The assembler spelling of an instruction (30_encoding.md R86 syntax column, R92). It has no semantic content:
the word is the instruction. Numbers are written in decimal, which R92 allows. -/

namespace Sys2Proof.Machine

/-- A register's name, `V0` to `VF` (30_encoding.md R92). -/
def regText (r : Reg) : String := "V" ++ String.singleton ("0123456789ABCDEF".toList.getD r.val '0')

/-- A mnemonic and its operands, separated by a comma and a space (30_encoding.md R92). -/
def asmText (mnemonic : String) (operands : List String) : String :=
  if operands = [] then mnemonic else mnemonic ++ " " ++ String.intercalate ", " operands

/-- The spelling of an instruction (30_encoding.md R86). -/
def instrText : Instr → String
  | .cls => asmText "CLS" []
  | .ret => asmText "RET" []
  | .sys nnn => asmText "SYS" [toString nnn.toNat]
  | .jp nnn => asmText "JP" [toString nnn.toNat]
  | .call nnn => asmText "CALL" [toString nnn.toNat]
  | .seImm x nn => asmText "SE" [regText x, toString nn.toNat]
  | .sneImm x nn => asmText "SNE" [regText x, toString nn.toNat]
  | .seReg x y => asmText "SE" [regText x, regText y]
  | .ldImm x nn => asmText "LD" [regText x, toString nn.toNat]
  | .addImm x nn => asmText "ADD" [regText x, toString nn.toNat]
  | .ldReg x y => asmText "LD" [regText x, regText y]
  | .orReg x y => asmText "OR" [regText x, regText y]
  | .andReg x y => asmText "AND" [regText x, regText y]
  | .xorReg x y => asmText "XOR" [regText x, regText y]
  | .addReg x y => asmText "ADD" [regText x, regText y]
  | .subReg x y => asmText "SUB" [regText x, regText y]
  | .shr x _ => asmText "SHR" [regText x]
  | .subnReg x y => asmText "SUBN" [regText x, regText y]
  | .shl x _ => asmText "SHL" [regText x]
  | .sneReg x y => asmText "SNE" [regText x, regText y]
  | .ldI nnn => asmText "LD" ["I", toString nnn.toNat]
  | .jpV0 nnn => asmText "JP" ["V0", toString nnn.toNat]
  | .rnd x nn => asmText "RND" [regText x, toString nn.toNat]
  | .drw x y n => asmText "DRW" [regText x, regText y, toString n.toNat]
  | .skp x => asmText "SKP" [regText x]
  | .sknp x => asmText "SKNP" [regText x]
  | .ldVxDT x => asmText "LD" [regText x, "DT"]
  | .ldVxK x => asmText "LD" [regText x, "K"]
  | .ldDTVx x => asmText "LD" ["DT", regText x]
  | .ldSTVx x => asmText "LD" ["ST", regText x]
  | .addI x => asmText "ADD" ["I", regText x]
  | .ldF x => asmText "LD" ["F", regText x]
  | .ldB x => asmText "LD" ["B", regText x]
  | .ldMemVx x => asmText "LD" ["[I]", regText x]
  | .ldVxMem x => asmText "LD" [regText x, "[I]"]

end Sys2Proof.Machine
end

