-- ==== Sys2Proof/Machine/Ports.lean ====
section
/-! DEFINITION. What the CORE block shows and takes at its ports (10_state.md R40): views of the state and of one transition.
The ports add nothing to the machine (decision D1: "Nothing observable depends on it"). The port `step` is a step, `rst` is
`State.boot`, `instr` is `State.fetchWord`. What R40 leaves open about the other ports is log 30. -/

namespace Sys2Proof.Machine

/-- The code of a fault (60_exceptions.md R230). -/
def Fault.code : Fault → Nat
  | .unsupportedOpcode _ => 1
  | .stackUnderflow => 2
  | .stackOverflow _ => 3
  | .memoryAccessFault _ => 4
  | .operandRangeFault _ => 5

/-- `pc_out`: the fetch address. -/
def State.pcOut (s : State) : Word := s.pc

/-- `key_in`: the sampled key flags. -/
def State.keyIn (s : State) : BitVec 16 := s.key

/-- `rand_in`: the byte a CXNN of this cycle would take. -/
def State.randPort (s : State) : Byte := s.rand8

/-- `dt_rdata`: what FX07 reads. -/
def State.dtRdata (s : State) : Byte := s.dt

/-- `awaiting_key_out`, "5 (valid + index)". DESIGN CHOICE, log 30: the valid bit is the top bit, and the index is 0 while no key
is awaited. -/
def State.awaitingKeyOut (s : State) : BitVec 5 :=
  match s.awaitingKey with
  | none => 0
  | some x => 1#1 ++ nibbleOfReg x

/-- `fault_out`: the fault of a transition, or none. -/
def faultOut : Result → Option Fault
  | .next _ => none
  | .fault f => some f
  | .refused _ => none

/-! ### The memory port: `mem_addr`, `mem_rdata`, `mem_wdata`, `mem_we` -/

/-- One access over the byte-wide memory port. -/
inductive MemAccess
  /-- A byte is read (FX65, DXYN). -/
  | read (addr : BitVec 17) (rdata : Byte)
  /-- A byte is written (FX33, FX55). -/
  | write (addr : BitVec 17) (wdata : Byte)
deriving DecidableEq, Repr

/-- `mem_addr`, 17 bits: no address an instruction forms wraps in it. -/
def MemAccess.memAddr : MemAccess → BitVec 17
  | .read a _ => a
  | .write a _ => a

/-- `mem_we`, the strobe of a write. -/
def MemAccess.memWe : MemAccess → Bool
  | .read _ _ => false
  | .write _ _ => true

/-- `mem_wdata`; no value without the strobe (log 30). -/
def MemAccess.memWdata : MemAccess → Option Byte
  | .read _ _ => none
  | .write _ b => some b

/-- `mem_rdata`; no value at a write (log 30). -/
def MemAccess.memRdata : MemAccess → Option Byte
  | .read _ b => some b
  | .write _ _ => none

/-- What the memory behind the port does with an access. -/
def MemAccess.perform (m : Memory) : MemAccess → Memory
  | .read _ _ => m
  | .write a b => m.write a.toNat b

/-- Bytes read from `base` on, ascending. -/
def readsFrom (base : Nat) : List Byte → List MemAccess
  | [] => []
  | b :: bs => .read (BitVec.ofNat 17 base) b :: readsFrom (base + 1) bs

/-- Bytes written from `base` on, ascending. -/
def writesFrom (base : Nat) : List Byte → List MemAccess
  | [] => []
  | b :: bs => .write (BitVec.ofNat 17 base) b :: writesFrom (base + 1) bs

/-- The data accesses of an instruction whose addresses all exist, in order (44_index_memory.md R193 to R195,
45_display_timer_key.md R211). -/
def memRequests (s : State) : Instr → List MemAccess
  | .ldB x => writesFrom s.i.toNat (bcdDigits (s.readV x))
  | .ldMemVx x => writesFrom s.i.toNat (s.readVs x)
  | .ldVxMem x => readsFrom s.i.toNat ((List.range (x.val + 1)).map fun k => s.byteAt (s.i.toNat + k))
  | .drw _ _ n => readsFrom s.i.toNat ((List.range n.toNat).map fun k => s.byteAt (s.i.toNat + k))
  | .cls | .ret | .sys _ | .jp _ | .call _ | .seImm _ _ | .sneImm _ _ | .seReg _ _ | .ldImm _ _
  | .addImm _ _ | .ldReg _ _ | .orReg _ _ | .andReg _ _ | .xorReg _ _ | .addReg _ _ | .subReg _ _
  | .shr _ _ | .subnReg _ _ | .shl _ _ | .sneReg _ _ | .ldI _ | .jpV0 _ | .rnd _ _ | .skp _ | .sknp _
  | .ldVxDT _ | .ldVxK _ | .ldDTVx _ | .ldSTVx _ | .addI _ | .ldF _ => []

/-- What a port carries in a transition: `a` if it completes. A transition that faults drives nothing but `fault_out` (log 30). -/
def ifCompletes {α : Type} (i : Instr) (s : State) (idle a : α) : α :=
  match exec i s with
  | .next _ => a
  | .fault _ => idle
  | .refused _ => idle

/-- The memory port in the transition of `i`: its accesses, in order (log 30). -/
def memPort (i : Instr) (s : State) : List MemAccess := ifCompletes i s [] (memRequests s i)

/-! ### The timer ports: `dt_wdata`, `dt_we`, `st_wdata`, `st_we` -/

/-- `dt_wdata`, with the value of the register in FX15; no value without the strobe. -/
def dtWdata (i : Instr) (s : State) : Option Byte :=
  match i with
  | .ldDTVx x => some (s.readV x)
  | .cls | .ret | .sys _ | .jp _ | .call _ | .seImm _ _ | .sneImm _ _ | .seReg _ _ | .ldImm _ _
  | .addImm _ _ | .ldReg _ _ | .orReg _ _ | .andReg _ _ | .xorReg _ _ | .addReg _ _ | .subReg _ _
  | .shr _ _ | .subnReg _ _ | .shl _ _ | .sneReg _ _ | .ldI _ | .jpV0 _ | .rnd _ _ | .drw _ _ _ | .skp _
  | .sknp _ | .ldVxDT _ | .ldVxK _ | .ldSTVx _ | .addI _ | .ldF _ | .ldB _ | .ldMemVx _ | .ldVxMem _ => none

/-- `dt_we`. -/
def dtWe (i : Instr) (s : State) : Bool := (dtWdata i s).isSome

/-- `st_wdata`, with the value of the register in FX18; no value without the strobe. -/
def stWdata (i : Instr) (s : State) : Option Byte :=
  match i with
  | .ldSTVx x => some (s.readV x)
  | .cls | .ret | .sys _ | .jp _ | .call _ | .seImm _ _ | .sneImm _ _ | .seReg _ _ | .ldImm _ _
  | .addImm _ _ | .ldReg _ _ | .orReg _ _ | .andReg _ _ | .xorReg _ _ | .addReg _ _ | .subReg _ _
  | .shr _ _ | .subnReg _ _ | .shl _ _ | .sneReg _ _ | .ldI _ | .jpV0 _ | .rnd _ _ | .drw _ _ _ | .skp _
  | .sknp _ | .ldVxDT _ | .ldVxK _ | .ldDTVx _ | .addI _ | .ldF _ | .ldB _ | .ldMemVx _ | .ldVxMem _ => none

/-- `st_we`. -/
def stWe (i : Instr) (s : State) : Bool := (stWdata i s).isSome

/-! ### The display ports: `disp_clear`, `disp_draw`, `disp_collision` -/

/-- The sprite draw request `(x0, y0, N, I)`. -/
structure DrawCommand where
  /-- `V[x]`, the column before it wraps. -/
  x0 : Byte
  /-- `V[y]`, the row before it wraps. -/
  y0 : Byte
  /-- The number of sprite rows. -/
  n : Nibble
  /-- The address of the first row. -/
  i : Word
deriving DecidableEq, Repr

/-- What the display unit does with a draw request: the display after it and the collision bit (45_display_timer_key.md R211). -/
def DrawCommand.perform (c : DrawCommand) (s : State) : Display × Bool :=
  drawSprite s.disp c.x0 c.y0 ((List.range c.n.toNat).map fun k => s.byteAt (c.i.toNat + k))

/-- `disp_clear`. -/
def dispClear : Instr → Bool
  | .cls => true
  | .ret | .sys _ | .jp _ | .call _ | .seImm _ _ | .sneImm _ _ | .seReg _ _ | .ldImm _ _
  | .addImm _ _ | .ldReg _ _ | .orReg _ _ | .andReg _ _ | .xorReg _ _ | .addReg _ _ | .subReg _ _
  | .shr _ _ | .subnReg _ _ | .shl _ _ | .sneReg _ _ | .ldI _ | .jpV0 _ | .rnd _ _ | .drw _ _ _ | .skp _
  | .sknp _ | .ldVxDT _ | .ldVxK _ | .ldDTVx _ | .ldSTVx _ | .addI _ | .ldF _ | .ldB _ | .ldMemVx _
  | .ldVxMem _ => false

/-- The draw request of an instruction whose row addresses all exist. -/
def drawRequest (s : State) : Instr → Option DrawCommand
  | .drw x y n => some ⟨s.readV x, s.readV y, n, s.i⟩
  | .cls | .ret | .sys _ | .jp _ | .call _ | .seImm _ _ | .sneImm _ _ | .seReg _ _ | .ldImm _ _
  | .addImm _ _ | .ldReg _ _ | .orReg _ _ | .andReg _ _ | .xorReg _ _ | .addReg _ _ | .subReg _ _
  | .shr _ _ | .subnReg _ _ | .shl _ _ | .sneReg _ _ | .ldI _ | .jpV0 _ | .rnd _ _ | .skp _
  | .sknp _ | .ldVxDT _ | .ldVxK _ | .ldDTVx _ | .ldSTVx _ | .addI _ | .ldF _ | .ldB _ | .ldMemVx _
  | .ldVxMem _ => none

/-- `disp_draw` in the transition of `i`. -/
def dispDraw (i : Instr) (s : State) : Option DrawCommand := ifCompletes i s none (drawRequest s i)

/-- `disp_collision`: the display unit's answer to the draw request; no value without one. -/
def dispCollision (i : Instr) (s : State) : Option Bool := (dispDraw i s).map fun c => (c.perform s).2

/-! ### Other views -/

/-- `SP`, the hidden stack pointer of a finite realisation: the number of entries (10_state.md R26). -/
def State.depth (s : State) : Nat := s.stack.length

/-- What the display consumer reads: 2048 cells of value 0 or 1, row-major (60_exceptions.md R246). -/
def State.displayCells (s : State) : List Nat := (List.finRange 2048).map fun k => (Display.at s.disp k).toNat

/-- What the audio consumer goes by: "play while sound timer > 0" (45_display_timer_key.md R217). -/
def State.soundOn (s : State) : Bool := s.st != 0

end Sys2Proof.Machine
end

