-- ==== Sys2Proof/Safety.lean ====
section
/-! DEFINITION. The terms claims are made in: the invariant, frames, the classes of instructions the spec names, reachability,
and the end of a run. -/

namespace Sys2Proof.Machine

/-! ### The invariant -/

/-- What every step keeps: `MEM_SIZE` in its range (00_scope.md R7), memory canonical and inside the address space
(20_memory.md R60), the stack within its capacity (10_state.md R26), a fault latched only by a halting driver (R33) and never
while a key is awaited (60_exceptions.md R235), and a key awaited exactly at the FX0A that waits for it (10_state.md R32,
45_display_timer_key.md R215). -/
structure State.Inv (s : State) : Prop where
  cfg_wf : s.cfg.wf
  memory_wf : Memory.wf s.memory
  memory_inside : Memory.inside s.memory s.cfg.memSize
  stack_bounded : ∀ n, s.cfg.stackDepth = some n → s.stack.length ≤ n
  latched_only_when_halting : s.fault ≠ none → s.cfg.faultPolicy = .halt
  latched_awaits_nothing : s.fault ≠ none → s.awaitingKey = none
  awaits_at_key_wait : ∀ x, s.awaitingKey = some x → ∃ w, s.fetchWord = .ok w ∧ decode w = .instr (.ldVxK x)

/-! ### Frames: what two states have in common -/

/-- Every register but those listed holds the same value. -/
def KeepsRegsBut (ks : List Reg) (s t : State) : Prop := ∀ k, k ∉ ks → t.readV k = s.readV k

/-- Every byte of memory reads the same. -/
def KeepsMemory (s t : State) : Prop := ∀ a, t.byteAt a = s.byteAt a

/-- Every byte of memory outside the `n` addresses from `base` on reads the same. -/
def KeepsMemoryBut (base n : Nat) (s t : State) : Prop := ∀ a, (a < base ∨ base + n ≤ a) → t.byteAt a = s.byteAt a

/-- The same display, timers and key flags. -/
def KeepsUnits (s t : State) : Prop := t.disp = s.disp ∧ t.dt = s.dt ∧ t.st = s.st ∧ t.key = s.key

/-- The same stack, key wait, fault latch, parameters and schedule. -/
def KeepsControl (s t : State) : Prop :=
  t.stack = s.stack ∧ t.awaitingKey = s.awaitingKey ∧ t.fault = s.fault ∧ t.cfg = s.cfg ∧ t.schedule = s.schedule

/-- The same supplies and draw counter (the model's own fields). -/
def KeepsSupplies (s t : State) : Prop := t.randIn = s.randIn ∧ t.pickIn = s.pickIn ∧ t.draws = s.draws

/-- Nothing but `pc` and the listed registers may differ: the closed world of 00_scope.md R12 for an instruction that writes
registers only. -/
def OnlyRegs (ks : List Reg) (s t : State) : Prop :=
  KeepsRegsBut ks s t ∧ t.i = s.i ∧ KeepsMemory s t ∧ KeepsUnits s t ∧ KeepsControl s t ∧ KeepsSupplies s t

/-- `pc` went on by `n` bytes, modulo 65536 (10_state.md R25). -/
def PcPlus (n : Nat) (s t : State) : Prop := t.pc.toNat = (s.pc.toNat + n) % 65536

/-! ### Classes of instructions -/

/-- The registers an instruction may write: its destinations, and VF for the six flag writers (10_state.md R22). -/
def destRegs : Instr → List Reg
  | .cls | .ret | .sys _ | .jp _ | .call _ | .seImm _ _ | .sneImm _ _ | .seReg _ _ | .sneReg _ _ | .ldI _ | .jpV0 _ => []
  | .skp _ | .sknp _ | .ldDTVx _ | .ldSTVx _ | .addI _ | .ldF _ | .ldB _ | .ldMemVx _ => []
  | .ldImm x _ | .addImm x _ | .rnd x _ | .ldVxDT x | .ldVxK x => [x]
  | .ldReg x _ | .orReg x _ | .andReg x _ | .xorReg x _ => [x]
  | .addReg x _ | .subReg x _ | .shr x _ | .subnReg x _ | .shl x _ => [x, VF]
  | .drw _ _ _ => [VF]
  | .ldVxMem x => (List.finRange 16).filter fun k => decide (k ≤ x)

/-- The conditional skips (41_skips.md). -/
def isSkip : Instr → Bool
  | .seImm _ _ | .sneImm _ _ | .seReg _ _ | .sneReg _ _ | .skp _ | .sknp _ => true
  | .cls | .ret | .sys _ | .jp _ | .call _ | .ldImm _ _ | .addImm _ _ | .ldReg _ _ | .orReg _ _
  | .andReg _ _ | .xorReg _ _ | .addReg _ _ | .subReg _ _ | .shr _ _ | .subnReg _ _ | .shl _ _ | .ldI _
  | .jpV0 _ | .rnd _ _ | .drw _ _ _ | .ldVxDT _ | .ldVxK _ | .ldDTVx _ | .ldSTVx _ | .addI _ | .ldF _
  | .ldB _ | .ldMemVx _ | .ldVxMem _ => false

/-- The unconditional control transfers: 00EE, 1NNN, 2NNN, BNNN (40_control_transfer.md). -/
def isUnconditional : Instr → Bool
  | .ret | .jp _ | .call _ | .jpV0 _ => true
  | .cls | .sys _ | .seImm _ _ | .sneImm _ _ | .seReg _ _ | .ldImm _ _ | .addImm _ _ | .ldReg _ _
  | .orReg _ _ | .andReg _ _ | .xorReg _ _ | .addReg _ _ | .subReg _ _ | .shr _ _ | .subnReg _ _
  | .shl _ _ | .sneReg _ _ | .ldI _ | .rnd _ _ | .drw _ _ _ | .skp _ | .sknp _ | .ldVxDT _ | .ldVxK _
  | .ldDTVx _ | .ldSTVx _ | .addI _ | .ldF _ | .ldB _ | .ldMemVx _ | .ldVxMem _ => false

/-- The control transfers of 40_control_transfer.md R116: "00EE, 1NNN, 2NNN, BNNN, and all conditional-skip opcodes". -/
def isControlTransfer (i : Instr) : Bool := isUnconditional i || isSkip i

/-- The instructions that read the key flags: EX9E, EXA1 and FX0A (10_state.md R30). -/
def readsKeys : Instr → Bool
  | .skp _ | .sknp _ | .ldVxK _ => true
  | .cls | .ret | .sys _ | .jp _ | .call _ | .seImm _ _ | .sneImm _ _ | .seReg _ _ | .ldImm _ _
  | .addImm _ _ | .ldReg _ _ | .orReg _ _ | .andReg _ _ | .xorReg _ _ | .addReg _ _ | .subReg _ _
  | .shr _ _ | .subnReg _ _ | .shl _ _ | .sneReg _ _ | .ldI _ | .jpV0 _ | .rnd _ _ | .drw _ _ _
  | .ldVxDT _ | .ldDTVx _ | .ldSTVx _ | .addI _ | .ldF _ | .ldB _ | .ldMemVx _ | .ldVxMem _ => false

/-- The number of bytes an instruction stores from address I on (20_memory.md R68). -/
def storeLength : Instr → Nat
  | .ldB _ => 3
  | .ldMemVx x => x.val + 1
  | .cls | .ret | .sys _ | .jp _ | .call _ | .seImm _ _ | .sneImm _ _ | .seReg _ _ | .ldImm _ _
  | .addImm _ _ | .ldReg _ _ | .orReg _ _ | .andReg _ _ | .xorReg _ _ | .addReg _ _ | .subReg _ _
  | .shr _ _ | .subnReg _ _ | .shl _ _ | .sneReg _ _ | .ldI _ | .jpV0 _ | .rnd _ _ | .drw _ _ _ | .skp _
  | .sknp _ | .ldVxDT _ | .ldVxK _ | .ldDTVx _ | .ldSTVx _ | .addI _ | .ldF _ | .ldVxMem _ => 0

/-- The number of bytes of data an instruction accesses from address I on (20_memory.md R68). -/
def dataLength : Instr → Nat
  | .ldB _ => 3
  | .ldMemVx x | .ldVxMem x => x.val + 1
  | .drw _ _ n => n.toNat
  | .cls | .ret | .sys _ | .jp _ | .call _ | .seImm _ _ | .sneImm _ _ | .seReg _ _ | .ldImm _ _
  | .addImm _ _ | .ldReg _ _ | .orReg _ _ | .andReg _ _ | .xorReg _ _ | .addReg _ _ | .subReg _ _
  | .shr _ _ | .subnReg _ _ | .shl _ _ | .sneReg _ _ | .ldI _ | .jpV0 _ | .rnd _ _ | .skp _ | .sknp _
  | .ldVxDT _ | .ldVxK _ | .ldDTVx _ | .ldSTVx _ | .addI _ | .ldF _ => 0

/-! ### Outcomes -/

/-- The same outcome with its next state changed. -/
def onNext (f : State → State) : Result → Result
  | .next t => .next (f t)
  | .fault e => .fault e
  | .refused r => .refused r

/-! ### Sprites (45_display_timer_key.md R211) -/

/-- A set bit of the `n`-row sprite at address I, drawn at `(V[x], V[y])`, falls on the cell `p`. -/
def SpriteCovers (s : State) (x y : Reg) (n : Nibble) (p : Pixel) : Prop :=
  ∃ r < n.toNat, ∃ c < 8, (s.byteAt (s.i.toNat + r)).getLsbD (7 - c) = true ∧
    p.x.val = ((s.readV x).toNat + c) % 64 ∧ p.y.val = ((s.readV y).toNat + r) % 32

/-! ### Runs -/

/-- `t` is reached from `s` by steps that all answer a next state. -/
inductive Reaches : State → State → Prop
  | refl (s : State) : Reaches s s
  | tail {s t u : State} : Reaches s t → step t = .next u → Reaches s u

/-- The program has finished: `pc = a` and the bytes at `a` are those of `JP a` (70_reset_and_hazards.md R271), with no fault
latched, no key awaited and the CORE the only agent left to move. -/
def State.Finished (s : State) : Prop :=
  s.fetchWord = .ok (encode (.jp (s.pc.setWidth 12))) ∧ s.pc.toNat < 4096 ∧ s.fault = none ∧ s.awaitingKey = none ∧
    s.schedule = []

end Sys2Proof.Machine
end

