-- ==== Sys2Proof/Certificates/Slice0/Obligations.lean ====
section
/-! DEFINITION. The statements for the provers. Each docstring names the rule of spec/ it formalises; where a clause rests on a
choice of the spec (a decision D<n>) or of the model (a log entry), the docstring says so. -/

open Sys2Proof Sys2Proof.Machine

/-! ### Encoding and decoding (30_encoding.md) -/

/-- Decoding the word of a well-formed instruction gives the instruction back, at every value of every operand
(30_encoding.md section 4, R86 and R87). -/
def Obligations.DecodeOfEncodeIsTheInstruction : Prop :=
  ∀ i : Instr, i.wf = true → decode (encode i) = .instr i

/-- A word that decodes to an instruction is the word of that instruction, which is well formed: no bit of a supported word is
dropped (30_encoding.md R90; the don't-care bits are kept as operands). -/
def Obligations.EncodeOfDecodeIsTheWord : Prop :=
  ∀ (w : Word) (i : Instr), decode w = .instr i → encode i = w ∧ i.wf = true

/-- The encoder and the decoder agree with the table of 30_encoding.md R86: the word of an instruction is its row's match with
the operands in their places, and a word decodes to an instruction only if it matches that instruction's row. -/
def Obligations.WordsMatchTheOpcodeMap : Prop :=
  (∀ i : Instr, encode i = (opcodeRow i).1 ||| operandBits i) ∧
  (∀ (w : Word) (i : Instr), decode w = .instr i → w &&& (opcodeRow i).2 = (opcodeRow i).1) ∧
  (∀ (i j : Instr), (opcodeRow i).1 &&& ((opcodeRow i).2 &&& (opcodeRow j).2) =
      (opcodeRow j).1 &&& ((opcodeRow i).2 &&& (opcodeRow j).2) →
    opcodeRow i = opcodeRow j ∨ ((opcodeRow i).1 &&& 0xF000 = 0 ∧ (opcodeRow j).1 &&& 0xF000 = 0))

/-- The unsupported words are exactly the five sets of 30_encoding.md R89 (an inference the spec marks as its own), and the
refusal carries the raw word (60_exceptions.md R231). -/
def Obligations.UnsupportedWordsAreTheFiveSets : Prop :=
  ∀ w u : Word, decode w = .unsupportedOpcode u ↔ u = w ∧
    ((nib1 w = 0x5 ∧ nib4 w ≠ 0) ∨
     (nib1 w = 0x8 ∧ nib4 w ∈ [0x8#4, 0x9#4, 0xA#4, 0xB#4, 0xC#4, 0xD#4, 0xF#4]) ∨
     (nib1 w = 0x9 ∧ nib4 w ≠ 0) ∨
     (nib1 w = 0xE ∧ (nib3 w, nib4 w) ∉ [(0x9#4, 0xE#4), (0xA#4, 0x1#4)]) ∨
     (nib1 w = 0xF ∧ (nib3 w, nib4 w) ∉ [(0x0#4, 0x7#4), (0x0#4, 0xA#4), (0x1#4, 0x5#4), (0x1#4, 0x8#4), (0x1#4, 0xE#4),
       (0x2#4, 0x9#4), (0x3#4, 0x3#4), (0x5#4, 0x5#4), (0x6#4, 0x5#4)]))

/-- Immediate assembly is the fold of 30_encoding.md R82, and it yields the bit fields `NN = w[7:0]`, `NNN = w[11:0]`,
`N = w[3:0]`. -/
def Obligations.ImmediatesAreTheBitFields : Prop :=
  assembleNibbles [] = 0 ∧
  (∀ (ns : List Nibble) (a : Nibble), assembleNibbles (ns ++ [a]) = (assembleNibbles ns <<< 4) ||| a.toNat) ∧
  (∀ w : Word,
    (immNN w).toNat = assembleNibbles [nib3 w, nib4 w] ∧ (immNN w).toNat = w.toNat % 256 ∧
    (immNNN w).toNat = assembleNibbles [nib2 w, nib3 w, nib4 w] ∧ (immNNN w).toNat = w.toNat % 4096 ∧
    (nib4 w).toNat = w.toNat % 16)

/-- Words of 95_test_vectors.md (section "Decode") decode to the instructions they stand for. -/
def Obligations.SampleWordsDecode : Prop :=
  decode 0xD123 = .instr (.drw 1 2 3) ∧ decode 0x8AB4 = .instr (.addReg 10 11) ∧ decode 0x00E0 = .instr .cls ∧
  decode 0x00EE = .instr .ret ∧ decode 0x00E1 = .instr (.sys 0x0E1) ∧ decode 0x01E0 = .instr (.sys 0x1E0) ∧
  decode 0x5120 = .instr (.seReg 1 2) ∧ decode 0x5121 = .unsupportedOpcode 0x5121 ∧
  decode 0xE1A1 = .instr (.sknp 1) ∧ decode 0xF165 = .instr (.ldVxMem 1) ∧ decode 0x8126 = .instr (.shr 1 2) ∧
  decode 0xFFFF = .unsupportedOpcode 0xFFFF

/-! ### The cycle and its faults (70_reset_and_hazards.md R270, 60_exceptions.md) -/

/-- A step runs the decoded instruction: when the CORE is to move, no fault is latched, no key is awaited, and the two bytes at
`pc` exist and decode to `i`, the step is `exec i`, and the driver installs its outcome (70_reset_and_hazards.md R270; which
agent moves is the model's schedule, log 6). -/
def Obligations.StepRunsTheDecodedInstruction : Prop :=
  ∀ (s : State) (i : Instr), s.fault = none → s.awaitingKey = none → s.pc.toNat + 1 < s.cfg.memSize →
    decodeBytes (s.byteAt s.pc.toNat) (s.byteAt (s.pc.toNat + 1)) = .instr i →
    (s.schedule = [] →
      (∀ t, exec i s = .next t → step s = .next t) ∧ (∀ f, exec i s = .fault f → step s = .next (s.takeFault f))) ∧
    (∀ es, s.schedule = .cycle :: es →
      (∀ t, exec i (s.setSchedule es) = .next t → step s = .next t) ∧
      (∀ f, exec i (s.setSchedule es) = .fault f → step s = .next ((s.setSchedule es).takeFault f)))

/-- The checks before the transition, in the order of 60_exceptions.md R235: a fetch at or beyond `MEM_SIZE` (decision D11, log
13), then a word no row matches; the step hands that fault to the driver. -/
def Obligations.FetchAndDecodeFaultsComeFirst : Prop :=
  ∀ s : State, s.fault = none → s.awaitingKey = none → s.schedule = [] →
    (s.cfg.memSize ≤ s.pc.toNat + 1 →
      step s = .next (s.takeFault (.memoryAccessFault (max s.pc.toNat s.cfg.memSize)))) ∧
    (s.pc.toNat + 1 < s.cfg.memSize → ∀ w,
      decodeBytes (s.byteAt s.pc.toNat) (s.byteAt (s.pc.toNat + 1)) = .unsupportedOpcode w →
      w = wordOfBytes (s.byteAt s.pc.toNat) (s.byteAt (s.pc.toNat + 1)) ∧
      step s = .next (s.takeFault (.unsupportedOpcode w)))

/-- What the driver does with a fault (60_exceptions.md R236, R238; decision D5, logs 9 and 10): under `halt` the fault is
latched, nothing else changes, and the next step stops with it; under `skip` only `pc` moves, by 2; under `continue` nothing
changes and the next step does the same again. -/
def Obligations.FaultPolicyDecidesWhatFollowsAFault : Prop :=
  ∀ (s : State) (f : Fault), s.fault = none → s.awaitingKey = none → s.schedule = [] → transition s = .fault f →
    (s.cfg.faultPolicy = .halt → ∃ t, step s = .next t ∧ t = s.setFault (some f) ∧ step t = .fault f) ∧
    (s.cfg.faultPolicy = .skipWord → ∃ t, step s = .next t ∧ PcPlus 2 s t ∧ t = s.setPc t.pc) ∧
    (s.cfg.faultPolicy = .logAndContinue → step s = .next s)

/-- The latch is cleared by nothing but a reset (10_state.md R33; decision D5): a latched fault stops every step, unless a load is
the next move, which starts afresh. R33 and D5 say only that the CORE is not invoked again: that a tick and a key event of a
latched machine stop as well, and that the stop is the step's answer, is the MODEL'S CHOICE (log 9), as the schedule is (log 6). -/
def Obligations.LatchedFaultStopsAllButALoad : Prop :=
  ∀ (s : State) (f : Fault), s.fault = some f →
    ((∀ l es, s.schedule ≠ .load l :: es) → step s = .fault f) ∧
    (∀ l es, s.schedule = .load l :: es → l.fits s.cfg.memSize → ∃ t, step s = .next t ∧ t.fault = none)

/-- A transition never refuses, and it faults exactly where 60_exceptions.md R230 and R235 say, with exactly that fault; in every
other case it completes (decisions D3, D4, D11, D13, D14; logs 11, 13, 14, 18). -/
def Obligations.TransitionsFaultExactlyWhereStated : Prop :=
  ∀ (i : Instr) (s : State), (∀ r, exec i s ≠ .refused r) ∧ ∀ f, exec i s = .fault f ↔
    ((i = .ret ∧ s.stack = [] ∧ f = .stackUnderflow) ∨
     ((∃ nnn, i = .call nnn) ∧ s.cfg.stackDepth = some s.stack.length ∧ f = .stackOverflow s.pc) ∨
     (0 < dataLength i ∧ s.cfg.memSize < s.i.toNat + dataLength i ∧ f = .memoryAccessFault (max s.i.toNat s.cfg.memSize)) ∨
     (∃ x, i = .ldF x ∧ s.cfg.digitRange = .fault ∧ 15 < (s.readV x).toNat ∧ f = .operandRangeFault (s.readV x)) ∨
     (∃ x, (i = .skp x ∨ i = .sknp x) ∧ s.cfg.keyRange = .fault ∧ 15 < (s.readV x).toNat ∧
       f = .operandRangeFault (s.readV x)))

/-! ### Whole-machine rules -/

/-- The invariant is kept by every step, from every state that meets it (`State.Inv`: 00_scope.md R7, 10_state.md R26, R32, R33,
20_memory.md R60, 45_display_timer_key.md R215). -/
def Obligations.StepKeepsTheInvariant : Prop :=
  ∀ s t : State, s.Inv → step s = .next t → t.Inv

/-- The state after reset meets the invariant. -/
def Obligations.ResetMeetsTheInvariant : Prop := State.reset.Inv

/-- A step changes no parameter, takes one move off the schedule, and changes a key flag only where the input collaborator moves:
the CORE never asserts or clears keys (10_state.md R30, R35; the schedule is the model's, log 6). -/
def Obligations.StepsKeepParametersAndKeys : Prop :=
  ∀ s t : State, step s = .next t →
    t.cfg = s.cfg ∧ t.schedule = s.schedule.tail ∧ ((∀ k p es, s.schedule ≠ .keyInput k p :: es) → t.key = s.key)

/-- An instruction writes no register but its destinations and, for the six flag writers, VF (00_scope.md R12, 10_state.md R22;
decision D24, log 23). -/
def Obligations.RegistersChangeOnlyAsDestinations : Prop :=
  ∀ (i : Instr) (s t : State), exec i s = .next t → KeepsRegsBut (destRegs i) s t

/-- I is written by ANNN, FX1E and FX29 only (10_state.md R23, 00_scope.md R12; decision D24, log 23). -/
def Obligations.IndexChangesOnlyInThreeInstructions : Prop :=
  ∀ (i : Instr) (s t : State), exec i s = .next t →
    (∀ nnn, i ≠ .ldI nnn) → (∀ x, i ≠ .addI x) → (∀ x, i ≠ .ldF x) → t.i = s.i

/-- Memory is written by FX33 and FX55 only, and only in the bytes they store, the `storeLength` addresses from I on
(00_scope.md R12, 20_memory.md R63, R68; decision D24, log 23). -/
def Obligations.MemoryChangesOnlyInTheStoredBytes : Prop :=
  ∀ (i : Instr) (s t : State), Memory.wf s.memory → exec i s = .next t →
    KeepsMemoryBut s.i.toNat (storeLength i) s t

/-- Every other unit is written by the instructions that name it only: the stack by 2NNN and 00EE, the display by 00E0 and DXYN,
DT by FX15, ST by FX18, the key wait by FX0A; the CORE writes no key flag, no latch and no parameter (00_scope.md R12, 10_state.md
R26, R29 to R33; decision D24, log 23). The last three clauses are about the model's own fields (logs 6 to 8). -/
def Obligations.UnitsChangeOnlyByTheirInstructions : Prop :=
  ∀ (i : Instr) (s t : State), exec i s = .next t →
    ((∀ nnn, i ≠ .call nnn) → i ≠ .ret → t.stack = s.stack) ∧
    (i ≠ .cls → (∀ x y n, i ≠ .drw x y n) → t.disp = s.disp) ∧
    ((∀ x, i ≠ .ldDTVx x) → t.dt = s.dt) ∧ ((∀ x, i ≠ .ldSTVx x) → t.st = s.st) ∧
    ((∀ x, i ≠ .ldVxK x) → t.awaitingKey = s.awaitingKey) ∧
    t.key = s.key ∧ t.fault = s.fault ∧ t.cfg = s.cfg ∧ t.schedule = s.schedule ∧
    ((∀ x nn, i ≠ .rnd x nn) → t.randIn = s.randIn) ∧ ((∀ x, i ≠ .ldVxK x) → t.pickIn = s.pickIn)

/-- 40_control_transfer.md R116: the control transfers are 00EE, 1NNN, 2NNN, BNNN and the six skips; every other opcode that
completes advances `pc` by 2, and FX0A leaves `pc` unchanged on a cycle in which it observes no key. -/
def Obligations.PcAdvancesByTwoOutsideControlTransfer : Prop :=
  (∀ i : Instr, isControlTransfer i = true ↔
    (i = .ret ∨ (∃ a, i = .jp a) ∨ (∃ a, i = .call a) ∨ (∃ a, i = .jpV0 a) ∨ (∃ x a, i = .seImm x a) ∨
     (∃ x a, i = .sneImm x a) ∨ (∃ x y, i = .seReg x y) ∨ (∃ x y, i = .sneReg x y) ∨ (∃ x, i = .skp x) ∨ (∃ x, i = .sknp x))) ∧
  (∀ (i : Instr) (s t : State), exec i s = .next t → isControlTransfer i = false → (∀ x, i ≠ .ldVxK x) → PcPlus 2 s t) ∧
  (∀ (x : Reg) (s t : State), exec (.ldVxK x) s = .next t →
    ((∀ k, s.pressed k = false) → t.pc = s.pc) ∧ ((∃ k, s.pressed k = true) → PcPlus 2 s t))

/-- Only EX9E, EXA1 and FX0A see the key flags (10_state.md R30, 20_memory.md R61 (b)): any other instruction does the same
whatever keys are pressed. -/
def Obligations.OnlyKeyInstructionsSeeTheKeys : Prop :=
  ∀ (i : Instr) (s : State) (k : BitVec 16), readsKeys i = false →
    exec i (s.setKeys k) = onNext (fun t => t.setKeys k) (exec i s)

/-- No instruction reads ST (10_state.md R29, 45_display_timer_key.md R217): every instruction but FX18 does the same whatever ST
holds and carries it along, and FX18 overwrites it. -/
def Obligations.SoundTimerIsNeverRead : Prop :=
  ∀ (i : Instr) (s : State) (b : Byte),
    ((∀ x, i ≠ .ldSTVx x) → exec i (s.setSt b) = onNext (fun t => t.setSt b) (exec i s)) ∧
    (∀ x, exec (.ldSTVx x) (s.setSt b) = exec (.ldSTVx x) s)

/-- Two memories in canonical form that read alike at every address are the same data (20_memory.md R60; the form is the model's,
log 2). -/
def Obligations.CanonicalMemoriesReadingAlikeAreEqual : Prop :=
  ∀ m n : Memory, Memory.wf m → Memory.wf n → (∀ a, m.read a = n.read a) → m = n

/-! ### Control transfer (40_control_transfer.md) -/

/-- 00EE (40_control_transfer.md R110): the last entry is popped and `pc` is 2 past it, modulo 65536 (decision D7, log 15); an empty
stack raises `StackUnderflow` (decision D3, log 14). -/
def Obligations.RetPopsAndGoesPastTheCall : Prop :=
  decode 0x00EE = .instr .ret ∧ ∀ s : State,
    (∀ ws a, s.stack = ws ++ [a] → ∃ t, exec .ret s = .next t ∧ t.pc.toNat = (a.toNat + 2) % 65536 ∧
      OnlyRegs [] (s.setStack ws) t) ∧
    (s.stack = [] → exec .ret s = .fault .stackUnderflow)

/-- 0NNN (40_control_transfer.md R111): a no-operation that advances `pc` by 2, whatever `NNN`; its words are those of family 0 but
0x00E0 and 0x00EE. -/
def Obligations.SysOnlyAdvancesPc : Prop :=
  ∀ nnn : Imm12, (nnn ≠ 0x0E0 → nnn ≠ 0x0EE → decode (atNNN nnn) = .instr (.sys nnn)) ∧
    ∀ s : State, ∃ t, exec (.sys nnn) s = .next t ∧ PcPlus 2 s t ∧ OnlyRegs [] s t

/-- 1NNN (40_control_transfer.md R112): `pc` becomes `NNN` with no increment; a jump to its own address changes nothing. -/
def Obligations.JpLoadsPc : Prop :=
  ∀ nnn : Imm12, decode (0x1000 ||| atNNN nnn) = .instr (.jp nnn) ∧
    ∀ s : State, (∃ t, exec (.jp nnn) s = .next t ∧ t.pc.toNat = nnn.toNat ∧ OnlyRegs [] s t) ∧
      (s.pc.toNat = nnn.toNat → exec (.jp nnn) s = .next s)

/-- 2NNN (40_control_transfer.md R113): the CALL's own address is pushed and `pc` becomes `NNN`; a full finite stack raises
`StackOverflow` (decision D4, log 11). -/
def Obligations.CallPushesItsOwnAddress : Prop :=
  ∀ nnn : Imm12, decode (0x2000 ||| atNNN nnn) = .instr (.call nnn) ∧ ∀ s : State,
    (s.cfg.stackDepth ≠ some s.stack.length → ∃ t, exec (.call nnn) s = .next t ∧ t.pc.toNat = nnn.toNat ∧
      OnlyRegs [] (s.setStack (s.stack ++ [s.pc])) t) ∧
    (s.cfg.stackDepth = some s.stack.length → exec (.call nnn) s = .fault (.stackOverflow s.pc))

/-- BNNN (40_control_transfer.md R114): `pc` becomes `NNN + V0`, which the 16-bit reduction never changes; no flag is written. -/
def Obligations.JpV0AddsTheOffset : Prop :=
  ∀ nnn : Imm12, decode (0xB000 ||| atNNN nnn) = .instr (.jpV0 nnn) ∧ ∀ s : State,
    ∃ t, exec (.jpV0 nnn) s = .next t ∧ t.pc.toNat = (nnn.toNat + (s.readV 0).toNat) % 65536 ∧
      t.pc.toNat = nnn.toNat + (s.readV 0).toNat ∧ OnlyRegs [] s t

/-- CALL then RET (40_control_transfer.md R115, an inference the spec marks as its own, and 95_test_vectors.md E3): whatever the
subroutine does, if it leaves the stack as it found it, RET resumes after the CALL with the stack at its depth before the call;
and a CALL whose target holds a RET does so in two steps. -/
def Obligations.CallThenRetResumesAfterTheCall : Prop :=
  (∀ (s t u : State) (nnn : Imm12), exec (.call nnn) s = .next t → u.stack = t.stack →
    ∃ r, exec .ret u = .next r ∧ PcPlus 2 s r ∧ r.stack = s.stack) ∧
  (∀ (s : State) (nnn : Imm12), s.fault = none → s.awaitingKey = none → s.schedule = [] →
    s.cfg.stackDepth ≠ some s.stack.length → s.fetchWord = .ok (encode (.call nnn)) → nnn.toNat + 1 < s.cfg.memSize →
    s.byteAt nnn.toNat = 0x00 → s.byteAt (nnn.toNat + 1) = 0xEE →
    ∃ t u, step s = .next t ∧ step t = .next u ∧ PcPlus 2 s u ∧ OnlyRegs [] s u)

/-! ### Skips (41_skips.md) -/

/-- 3XNN, 4XNN, 5XY0, 9XY0 (41_skips.md R130 to R133): `pc` goes on by 4 where the condition holds, else by 2, and nothing else
changes. -/
def Obligations.SkipsCompareForEquality : Prop :=
  ∀ (x y : Reg) (nn : Byte),
    decode (0x3000 ||| atX x ||| atNN nn) = .instr (.seImm x nn) ∧
    decode (0x4000 ||| atX x ||| atNN nn) = .instr (.sneImm x nn) ∧
    decode (0x5000 ||| atX x ||| atY y) = .instr (.seReg x y) ∧
    decode (0x9000 ||| atX x ||| atY y) = .instr (.sneReg x y) ∧
    ∀ s : State,
      (∃ t, exec (.seImm x nn) s = .next t ∧ PcPlus (if s.readV x = nn then 4 else 2) s t ∧ OnlyRegs [] s t) ∧
      (∃ t, exec (.sneImm x nn) s = .next t ∧ PcPlus (if s.readV x = nn then 2 else 4) s t ∧ OnlyRegs [] s t) ∧
      (∃ t, exec (.seReg x y) s = .next t ∧ PcPlus (if s.readV x = s.readV y then 4 else 2) s t ∧ OnlyRegs [] s t) ∧
      (∃ t, exec (.sneReg x y) s = .next t ∧ PcPlus (if s.readV x = s.readV y then 2 else 4) s t ∧ OnlyRegs [] s t)

/-- EX9E and EXA1 (41_skips.md R134, R135): the key tested is the low nibble of `V[x]` (decision D14, log 18); under
`KEY_RANGE = fault` a value above 15 raises `OperandRangeFault`. -/
def Obligations.SkipsOnAKeyTestTheLowNibble : Prop :=
  ∀ x : Reg, decode (0xE09E ||| atX x) = .instr (.skp x) ∧ decode (0xE0A1 ||| atX x) = .instr (.sknp x) ∧ ∀ s : State,
    (s.cfg.keyRange = .mask4 ∨ (s.readV x).toNat ≤ 15 → ∀ k : Fin 16, k.val = (s.readV x).toNat % 16 →
      (∃ t, exec (.skp x) s = .next t ∧ PcPlus (if s.key.getLsbD k.val then 4 else 2) s t ∧ OnlyRegs [] s t) ∧
      (∃ t, exec (.sknp x) s = .next t ∧ PcPlus (if s.key.getLsbD k.val then 2 else 4) s t ∧ OnlyRegs [] s t)) ∧
    (s.cfg.keyRange = .fault → 15 < (s.readV x).toNat →
      exec (.skp x) s = .fault (.operandRangeFault (s.readV x)) ∧
      exec (.sknp x) s = .fault (.operandRangeFault (s.readV x)))

/-! ### Register-immediate (42_register_immediate.md) -/

/-- 6XNN and 7XNN (42_register_immediate.md R150, R151): `V[x]` becomes `NN`, or the sum modulo 256; no flag is written, and VF
changes only as the destination. -/
def Obligations.ImmediatesLoadAndAddWithoutAFlag : Prop :=
  ∀ (x : Reg) (nn : Byte), decode (0x6000 ||| atX x ||| atNN nn) = .instr (.ldImm x nn) ∧
    decode (0x7000 ||| atX x ||| atNN nn) = .instr (.addImm x nn) ∧ ∀ s : State,
      (∃ t, exec (.ldImm x nn) s = .next t ∧ t.readV x = nn ∧ PcPlus 2 s t ∧ OnlyRegs [x] s t) ∧
      (∃ t, exec (.addImm x nn) s = .next t ∧ (t.readV x).toNat = ((s.readV x).toNat + nn.toNat) % 256 ∧ PcPlus 2 s t ∧
        OnlyRegs [x] s t)

/-- CXNN (42_register_immediate.md R153): `V[x]` becomes the random byte masked by `NN`, a submask of `NN`, for every byte the
source may deliver; one byte is used up. That is the rule; the clauses on `rand8`, `randIn` and the draw counter (`useRand`) are about
the supply and the free value behind it, the MODEL'S CHOICE (log 7). Nothing here rests on the free value. -/
def Obligations.RandomByteIsMasked : Prop :=
  ∀ (x : Reg) (nn : Byte), decode (0xC000 ||| atX x ||| atNN nn) = .instr (.rnd x nn) ∧ ∀ s : State,
    ∃ t, exec (.rnd x nn) s = .next t ∧ t.readV x = s.rand8 &&& nn ∧ t.readV x &&& ~~~ nn = 0 ∧
      (∀ r rest, s.randIn = r :: rest → t.readV x = r &&& nn ∧ t.randIn = rest) ∧ PcPlus 2 s t ∧ OnlyRegs [x] s.useRand t

/-! ### The ALU (43_alu.md) -/

/-- 8XY0 (43_alu.md R160): `V[x]` becomes `V[y]`. -/
def Obligations.MoveCopiesARegister : Prop :=
  ∀ x y : Reg, decode (0x8000 ||| atX x ||| atY y) = .instr (.ldReg x y) ∧ ∀ s : State,
    ∃ t, exec (.ldReg x y) s = .next t ∧ t.readV x = s.readV y ∧ PcPlus 2 s t ∧ OnlyRegs [x] s t

/-- 8XY1, 8XY2, 8XY3 (43_alu.md R161 to R163): the bitwise functions, with VF not written (decision D24, log 23). -/
def Obligations.LogicIsBitwiseAndWritesNoFlag : Prop :=
  ∀ x y : Reg, decode (0x8001 ||| atX x ||| atY y) = .instr (.orReg x y) ∧
    decode (0x8002 ||| atX x ||| atY y) = .instr (.andReg x y) ∧
    decode (0x8003 ||| atX x ||| atY y) = .instr (.xorReg x y) ∧ ∀ s : State,
      (∃ t, exec (.orReg x y) s = .next t ∧ PcPlus 2 s t ∧ OnlyRegs [x] s t ∧
        ∀ k < 8, (t.readV x).getLsbD k = ((s.readV x).getLsbD k || (s.readV y).getLsbD k)) ∧
      (∃ t, exec (.andReg x y) s = .next t ∧ PcPlus 2 s t ∧ OnlyRegs [x] s t ∧
        ∀ k < 8, (t.readV x).getLsbD k = ((s.readV x).getLsbD k && (s.readV y).getLsbD k)) ∧
      (∃ t, exec (.xorReg x y) s = .next t ∧ PcPlus 2 s t ∧ OnlyRegs [x] s t ∧
        ∀ k < 8, (t.readV x).getLsbD k = ((s.readV x).getLsbD k ^^ (s.readV y).getLsbD k))

/-- 8XY4 (43_alu.md R164): the sum modulo 256, and VF 1 exactly when the sum exceeds 255; with `X = F` the carry stays and the sum
is lost. -/
def Obligations.AddWritesTheSumThenTheCarry : Prop :=
  ∀ x y : Reg, decode (0x8004 ||| atX x ||| atY y) = .instr (.addReg x y) ∧ ∀ s : State,
    ∃ t, exec (.addReg x y) s = .next t ∧
      (x ≠ VF → (t.readV x).toNat = ((s.readV x).toNat + (s.readV y).toNat) % 256) ∧
      (t.readV VF).toNat = (if (s.readV x).toNat + (s.readV y).toNat > 255 then 1 else 0) ∧
      PcPlus 2 s t ∧ OnlyRegs [x, VF] s t

/-- 8XY5 and 8XY7 (43_alu.md R165, R167): the difference modulo 256, and VF 0 exactly when the subtraction borrowed; with `X = F` the
flag stays. -/
def Obligations.SubtractionsWriteTheDifferenceThenNotBorrow : Prop :=
  ∀ x y : Reg, decode (0x8005 ||| atX x ||| atY y) = .instr (.subReg x y) ∧
    decode (0x8007 ||| atX x ||| atY y) = .instr (.subnReg x y) ∧ ∀ (s : State) (a b : Nat),
      a = (s.readV x).toNat → b = (s.readV y).toNat →
      (∃ t, exec (.subReg x y) s = .next t ∧ (x ≠ VF → (t.readV x).toNat = if a < b then a + 256 - b else a - b) ∧
        (t.readV VF).toNat = (if a < b then 0 else 1) ∧ PcPlus 2 s t ∧ OnlyRegs [x, VF] s t) ∧
      (∃ t, exec (.subnReg x y) s = .next t ∧ (x ≠ VF → (t.readV x).toNat = if b < a then b + 256 - a else b - a) ∧
        (t.readV VF).toNat = (if b < a then 0 else 1) ∧ PcPlus 2 s t ∧ OnlyRegs [x, VF] s t)

/-- 8XY6 and 8XYE (43_alu.md R166, R168): one bit, `V[x]` only; VF is the bit shifted out, 0x80 or 0x00 for 8XYE; with `X = F` the
shifted value stays (decision D6, log 17). -/
def Obligations.ShiftsWriteTheBitOutThenTheResult : Prop :=
  ∀ x y : Reg, decode (0x8006 ||| atX x ||| atY y) = .instr (.shr x y) ∧
    decode (0x800E ||| atX x ||| atY y) = .instr (.shl x y) ∧ ∀ (s : State) (a : Nat), a = (s.readV x).toNat →
      (∃ t, exec (.shr x y) s = .next t ∧ (t.readV x).toNat = a / 2 ∧ (x ≠ VF → (t.readV VF).toNat = a % 2) ∧
        PcPlus 2 s t ∧ OnlyRegs [x, VF] s t) ∧
      (∃ t, exec (.shl x y) s = .next t ∧ (t.readV x).toNat = a * 2 % 256 ∧
        (x ≠ VF → (t.readV VF).toNat = if 128 ≤ a then 128 else 0) ∧ PcPlus 2 s t ∧ OnlyRegs [x, VF] s t)

/-! ### The index register and memory (44_index_memory.md) -/

/-- ANNN (44_index_memory.md R190): I becomes `NNN`; and a value of I above 0xFFF comes from FX1E only. -/
def Obligations.LoadIndexWritesI : Prop :=
  (∀ nnn : Imm12, decode (0xA000 ||| atNNN nnn) = .instr (.ldI nnn) ∧ ∀ s : State,
    ∃ t, exec (.ldI nnn) s = .next t ∧ t.i.toNat = nnn.toNat ∧ PcPlus 2 s t ∧ OnlyRegs [] (s.setI t.i) t) ∧
  (∀ (i : Instr) (s t : State), exec i s = .next t → s.i.toNat ≤ 0xFFF → 0xFFF < t.i.toNat → ∃ x, i = .addI x)

/-- FX1E (44_index_memory.md R191): I becomes `I + V[x]` modulo 65536 (decision D9, log 16), with no flag. -/
def Obligations.AddIndexWrapsAtSixteenBits : Prop :=
  ∀ x : Reg, decode (0xF01E ||| atX x) = .instr (.addI x) ∧ ∀ s : State,
    ∃ t, exec (.addI x) s = .next t ∧ t.i.toNat = (s.i.toNat + (s.readV x).toNat) % 65536 ∧ PcPlus 2 s t ∧
      OnlyRegs [] (s.setI t.i) t

/-- FX29 (44_index_memory.md R192): I becomes 5 times the low nibble of `V[x]` (decision D13, log 18); under `DIGIT_RANGE = fault` a
value above 15 raises `OperandRangeFault`. -/
def Obligations.LoadGlyphAddressesTheFont : Prop :=
  ∀ x : Reg, decode (0xF029 ||| atX x) = .instr (.ldF x) ∧ ∀ s : State,
    (s.cfg.digitRange = .mask4 ∨ (s.readV x).toNat ≤ 15 → ∃ t, exec (.ldF x) s = .next t ∧
      t.i.toNat = 5 * ((s.readV x).toNat % 16) ∧ PcPlus 2 s t ∧ OnlyRegs [] (s.setI t.i) t) ∧
    (s.cfg.digitRange = .fault → 15 < (s.readV x).toNat → exec (.ldF x) s = .fault (.operandRangeFault (s.readV x)))

/-- FX33 (44_index_memory.md R193): the three decimal digits at I, I + 1, I + 2, every other byte unchanged; an address at or above
`MEM_SIZE` faults with nothing stored (decision D11, log 13). -/
def Obligations.BcdStoresThreeDigits : Prop :=
  ∀ x : Reg, decode (0xF033 ||| atX x) = .instr (.ldB x) ∧ ∀ s : State,
    (Memory.wf s.memory → s.i.toNat + 2 < s.cfg.memSize → ∃ t, exec (.ldB x) s = .next t ∧
      (t.byteAt s.i.toNat).toNat = (s.readV x).toNat / 100 ∧
      (t.byteAt (s.i.toNat + 1)).toNat = (s.readV x).toNat / 10 % 10 ∧
      (t.byteAt (s.i.toNat + 2)).toNat = (s.readV x).toNat % 10 ∧
      KeepsMemoryBut s.i.toNat 3 s t ∧ PcPlus 2 s t ∧ OnlyRegs [] (s.setMemory t.memory) t) ∧
    (s.cfg.memSize ≤ s.i.toNat + 2 → exec (.ldB x) s = .fault (.memoryAccessFault (max s.i.toNat s.cfg.memSize)))

/-- FX55 (44_index_memory.md R194): `V0..Vx` at I .. I + x, every other byte, I and the registers unchanged; all or nothing
(decision D11, log 13). -/
def Obligations.BlockStoreWritesTheRegisters : Prop :=
  ∀ x : Reg, decode (0xF055 ||| atX x) = .instr (.ldMemVx x) ∧ ∀ s : State,
    (Memory.wf s.memory → s.i.toNat + x.val < s.cfg.memSize → ∃ t, exec (.ldMemVx x) s = .next t ∧
      (∀ k : Reg, k ≤ x → t.byteAt (s.i.toNat + k.val) = s.readV k) ∧
      KeepsMemoryBut s.i.toNat (x.val + 1) s t ∧ PcPlus 2 s t ∧ OnlyRegs [] (s.setMemory t.memory) t) ∧
    (s.cfg.memSize ≤ s.i.toNat + x.val →
      exec (.ldMemVx x) s = .fault (.memoryAccessFault (max s.i.toNat s.cfg.memSize)))

/-- FX65 (44_index_memory.md R195): `V0..Vx` from I .. I + x, the registers above `Vx`, I and memory unchanged; all or nothing
(decision D11, log 13). -/
def Obligations.BlockLoadReadsTheRegisters : Prop :=
  ∀ x : Reg, decode (0xF065 ||| atX x) = .instr (.ldVxMem x) ∧ ∀ s : State,
    (s.i.toNat + x.val < s.cfg.memSize → ∃ t, exec (.ldVxMem x) s = .next t ∧
      (∀ k : Reg, k ≤ x → t.readV k = s.byteAt (s.i.toNat + k.val)) ∧ (∀ k : Reg, x < k → t.readV k = s.readV k) ∧
      PcPlus 2 s t ∧ OnlyRegs (List.finRange 16) s t) ∧
    (s.cfg.memSize ≤ s.i.toNat + x.val →
      exec (.ldVxMem x) s = .fault (.memoryAccessFault (max s.i.toNat s.cfg.memSize)))

/-- FX55 then FX65 with the same X and I restores the registers, whatever happened to them in between (44_index_memory.md R195 (d);
decision D11, log 13). -/
def Obligations.BlockStoreThenLoadRestores : Prop :=
  ∀ (s t u : State) (x : Reg), Memory.wf s.memory → exec (.ldMemVx x) s = .next t →
    u.memory = t.memory → u.i = t.i → u.cfg = t.cfg →
    ∃ r, exec (.ldVxMem x) u = .next r ∧ ∀ k : Reg, k ≤ x → r.readV k = s.readV k

/-- A stored byte is seen by the very next fetch (20_memory.md R73, an inference the spec marks as its own): if FX55 stores `Vj`
and the register after it where `pc` then points, the next word fetched is made of them, `Vj` as the high byte (R65). -/
def Obligations.StoredWordIsFetchedNext : Prop :=
  ∀ (s t : State) (x j k : Reg), Memory.wf s.memory → exec (.ldMemVx x) s = .next t → k.val = j.val + 1 → k ≤ x →
    t.pc.toNat = s.i.toNat + j.val → t.fetchWord = .ok (wordOfBytes (s.readV j) (s.readV k))

/-! ### Display, timers and keys (45_display_timer_key.md) -/

/-- 00E0 (45_display_timer_key.md R210): all 2048 cells become 0 and nothing else but `pc` changes; a second CLS changes nothing but
`pc`. -/
def Obligations.ClsClearsEveryCell : Prop :=
  decode 0x00E0 = .instr .cls ∧ ∀ s : State, ∃ t, exec .cls s = .next t ∧ (∀ k : Fin 2048, Display.at t.disp k = false) ∧
    PcPlus 2 s t ∧ OnlyRegs [] (s.setDisp t.disp) t ∧ ∃ u, exec .cls t = .next u ∧ u = t.setPc u.pc ∧ PcPlus 2 t u

/-- DXYN (45_display_timer_key.md R211): the loop of the spec flips exactly the cells the sprite's set bits fall on, and VF is 1
exactly when one of them was 1; I, memory and every other register are unchanged; a row at or above `MEM_SIZE` faults with nothing
drawn. The pixel details are decisions D11 and D16 and the passages G2, G3 (logs 13, 20). -/
def Obligations.DrwXorsExactlyTheSprite : Prop :=
  ∀ (x y : Reg) (n : Nibble), decode (0xD000 ||| atX x ||| atY y ||| n.setWidth 16) = .instr (.drw x y n) ∧ ∀ s : State,
    (n.toNat = 0 ∨ s.i.toNat + n.toNat ≤ s.cfg.memSize → ∃ t, exec (.drw x y n) s = .next t ∧
      (∀ p, SpriteCovers s x y n p → Display.cell t.disp p = !Display.cell s.disp p) ∧
      (∀ p, ¬ SpriteCovers s x y n p → Display.cell t.disp p = Display.cell s.disp p) ∧
      ((∃ p, SpriteCovers s x y n p ∧ Display.cell s.disp p = true) → t.readV VF = 1) ∧
      ((∀ p, SpriteCovers s x y n p → Display.cell s.disp p = false) → t.readV VF = 0) ∧
      PcPlus 2 s t ∧ OnlyRegs [VF] (s.setDisp t.disp) t) ∧
    (0 < n.toNat → s.cfg.memSize < s.i.toNat + n.toNat →
      exec (.drw x y n) s = .fault (.memoryAccessFault (max s.i.toNat s.cfg.memSize)))

/-- Drawing the same sprite again at the same place restores the display (45_display_timer_key.md R211), and VF is then 1 exactly
when some cell it covers was 0 before the first drawing: what the pseudocode of R211 gives (log 29). -/
def Obligations.DrwTwiceRestoresTheDisplay : Prop :=
  ∀ (s t u : State) (x y : Reg) (n : Nibble), exec (.drw x y n) s = .next t → t.readV x = s.readV x → t.readV y = s.readV y →
    exec (.drw x y n) t = .next u →
    u.disp = s.disp ∧ ((∃ p, SpriteCovers s x y n p ∧ Display.cell s.disp p = false) ↔ u.readV VF = 1) ∧
    (u.readV VF = 0 ∨ u.readV VF = 1)

/-- FX15 and FX18 (45_display_timer_key.md R216, R217): the timer becomes `V[x]`, any value. -/
def Obligations.TimerWritesTakeTheRegister : Prop :=
  ∀ x : Reg, decode (0xF015 ||| atX x) = .instr (.ldDTVx x) ∧ decode (0xF018 ||| atX x) = .instr (.ldSTVx x) ∧ ∀ s : State,
    (∃ t, exec (.ldDTVx x) s = .next t ∧ t.dt = s.readV x ∧ PcPlus 2 s t ∧ OnlyRegs [] (s.setDt t.dt) t) ∧
    (∃ t, exec (.ldSTVx x) s = .next t ∧ t.st = s.readV x ∧ PcPlus 2 s t ∧ OnlyRegs [] (s.setSt t.st) t)

/-- FX07 (45_display_timer_key.md R212): `V[x]` becomes the delay timer's value at this transition; and DT never rises but by an
FX15, so that the value is at most the last one written (R212, 70_reset_and_hazards.md R275; the floor at 0 is log 22). -/
def Obligations.DelayTimerIsReadAndNeverRises : Prop :=
  (∀ x : Reg, decode (0xF007 ||| atX x) = .instr (.ldVxDT x) ∧ ∀ s : State,
    ∃ t, exec (.ldVxDT x) s = .next t ∧ t.readV x = s.dt ∧ PcPlus 2 s t ∧ OnlyRegs [x] s t) ∧
  (∀ s t : State, step s = .next t → s.dt.toNat < t.dt.toNat → ∃ w x, s.fetchWord = .ok w ∧ decode w = .instr (.ldDTVx x))

/-- FX0A (45_display_timer_key.md R213, R214; decision D15, logs 8 and 19): with no key pressed the machine waits and nothing else
changes; with one or more, `V[x]` becomes the number of a pressed key, the wait ends and `pc` goes on; and every pressed key is the
result for some choice of the environment. -/
def Obligations.KeyWaitTakesAPressedKey : Prop :=
  ∀ x : Reg, decode (0xF00A ||| atX x) = .instr (.ldVxK x) ∧ ∀ s : State,
    ((∀ k, s.pressed k = false) → exec (.ldVxK x) s = .next (s.setAwaiting (some x))) ∧
    ((∃ k, s.pressed k = true) → ∃ t j, exec (.ldVxK x) s = .next t ∧ s.pressed j = true ∧ (t.readV x).toNat = j.val ∧
      t.awaitingKey = none ∧ PcPlus 2 s t ∧ KeepsRegsBut [x] s t ∧ t.i = s.i ∧ KeepsMemory s t ∧ KeepsUnits s t ∧
      t.stack = s.stack ∧ t.fault = s.fault ∧ t.cfg = s.cfg ∧ t.schedule = s.schedule ∧ t.randIn = s.randIn) ∧
    (∀ k, s.pressed k = true → ∃ n t, exec (.ldVxK x) { s with pickIn := n :: s.pickIn } = .next t ∧
      (t.readV x).toNat = k.val)

/-- A cycle that starts with a key awaited cannot fault, and does what fetching again at the unchanged `pc` would do
(45_display_timer_key.md R215, an inference the spec marks as its own; 60_exceptions.md R235). -/
def Obligations.AwaitingCycleEqualsFetchingAgain : Prop :=
  ∀ (s : State) (x : Reg), s.Inv → s.awaitingKey = some x → s.schedule = [] →
    step s = step (s.setAwaiting none) ∧ ∃ t, step s = .next t ∧ t.fault = none

/-- If no key is ever pressed, a waiting machine never passes its FX0A: any number of its cycles leaves the state as it is
(70_reset_and_hazards.md R274, an inference the spec marks as its own). -/
def Obligations.WaitsForEverWithoutAKey : Prop :=
  ∀ (s : State) (x : Reg) (n : Nat), s.awaitingKey = some x → s.fault = none → s.schedule = [] →
    (∀ k, s.pressed k = false) → Sys2Proof.core.run n s = .next s

/-! ### The other agents, reset and the end of a run -/

/-- The external agents between two cycles (60_exceptions.md R244, R245; decisions D18 and D21, the floor at 0 is G4; logs 6, 22): a
tick lowers each timer that is not 0 by 1; a key event sets or clears one flag; nothing else changes. -/
def Obligations.TicksAndKeysChangeOnlyTheirUnits : Prop :=
  ∀ (s : State) (es : List Event), s.fault = none →
    (s.schedule = .tick :: es → ∃ t, step s = .next t ∧ t.dt.toNat = s.dt.toNat - 1 ∧ t.st.toNat = s.st.toNat - 1 ∧
      t.pc = s.pc ∧ OnlyRegs [] (((s.setSchedule es).setDt t.dt).setSt t.st) t) ∧
    (∀ k p, s.schedule = .keyInput k p :: es → ∃ t, step s = .next t ∧ t.pressed k = p ∧
      (∀ j, j ≠ k → t.pressed j = s.pressed j) ∧ t.pc = s.pc ∧ OnlyRegs [] ((s.setSchedule es).setKeys t.key) t)

/-- A load is a full reset (10_state.md R45, 70_reset_and_hazards.md R260, R262, R264; decision D17, logs 3, 4, 26): the program
stands at 0x200 in file order, the image's bytes outside it, the display is the launch's, every register is at its reset value, and
no fault or wait is left; a launch that does not fit below `MEM_SIZE` is refused. Two groups of clauses are the MODEL'S CHOICE and no
rule of the spec: what an address reads as that neither the program nor the image names, `unlistedByte` (log 2: the font PRESUMED,
0x00 a DESIGN CHOICE; R45 leaves those bytes open), and that the key flags, the parameters, the rest of the schedule and the
supplies stay (log 27). -/
def Obligations.LoadStartsAFreshSession : Prop :=
  ∀ (s : State) (l : Launch) (es : List Event), s.schedule = .load l :: es →
    (¬ l.fits s.cfg.memSize → step s = .refused .launchTooLarge) ∧
    (l.fits s.cfg.memSize → ∃ t, step s = .next t ∧ (∀ k, t.readV k = 0) ∧ t.i = 0 ∧ t.pc.toNat = 0x200 ∧ t.stack = [] ∧
      t.dt = 0 ∧ t.st = 0 ∧ t.awaitingKey = none ∧ t.fault = none ∧ t.disp = l.initDisplay ∧
      (∀ (k : Nat) (h : k < l.rom.length), t.byteAt (0x200 + k) = l.rom[k]) ∧
      (∀ a b, (a < 0x200 ∨ 0x200 + l.rom.length ≤ a) → (a, b) ∈ l.image → (∀ c, (a, c) ∈ l.image → c = b) →
        t.byteAt a = b) ∧
      (∀ a, (a < 0x200 ∨ 0x200 + l.rom.length ≤ a) → (∀ b, (a, b) ∉ l.image) → t.byteAt a = unlistedByte a) ∧
      t.key = s.key ∧ t.cfg = s.cfg ∧ t.schedule = es ∧ KeepsSupplies s t)

/-- The values after reset (10_state.md R45): registers, timers and stack zeroed and `pc` at 0x200, which the document states; I = 0,
no key awaited, no fault latched (decisions D5 and D17, log 4); a blank display and released keys (logs 3 and 5). -/
def Obligations.ResetValuesAreTheStatedOnes : Prop :=
  (∀ k, State.reset.readV k = 0) ∧ State.reset.pc.toNat = 0x200 ∧ State.reset.stack = [] ∧ State.reset.dt = 0 ∧
  State.reset.st = 0 ∧ State.reset.i = 0 ∧ State.reset.awaitingKey = none ∧ State.reset.fault = none ∧
  (∀ p, Display.cell State.reset.disp p = false) ∧ (∀ k, State.reset.pressed k = false)

/-- A program that sits on its self-jump has finished: from then on any number of cycles leaves the whole state unchanged
(70_reset_and_hazards.md R271, decision D22; 40_control_transfer.md R112 (d)). -/
def Obligations.SelfJumpIsAFixedPoint : Prop :=
  ∀ (s : State) (n : Nat), s.Finished → Sys2Proof.core.run n s = .next s

/-! ### The ports of the CORE (10_state.md R40) -/

/-- The ports carry what a transition does to the units behind them (10_state.md R40; decision D1): performing the accesses of the
memory port in order gives the memory after, each at an unwrapped 17-bit address among the instruction's data addresses, all of
which exist, and a byte read is the byte there; the timers take what their ports strobe; the display is cleared, drawn or kept as its
ports say, and VF takes the display unit's collision bit; and the state after a wait shows the register on `awaiting_key_out`. That
one transition's accesses form an ordered list, that a faulting transition drives nothing but `fault_out`, and the layout of
`awaiting_key_out` are the MODEL'S CHOICE (log 30). -/
def Obligations.PortsCarryWhatATransitionDoes : Prop :=
  (∀ (i : Instr) (s t : State), exec i s = .next t →
    t.memory = (memPort i s).foldl MemAccess.perform s.memory ∧
    (∀ q ∈ memPort i s, s.i.toNat ≤ q.memAddr.toNat ∧ q.memAddr.toNat < s.i.toNat + dataLength i ∧
      q.memAddr.toNat < s.cfg.memSize ∧ q.memWe = q.memWdata.isSome ∧
      (∀ b, q.memRdata = some b → b = s.byteAt q.memAddr.toNat)) ∧
    (memPort i s).length = dataLength i ∧
    t.dt = (dtWdata i s).getD s.dt ∧ t.st = (stWdata i s).getD s.st ∧
    (dtWe i s = true ↔ ∃ x, i = .ldDTVx x) ∧ (stWe i s = true ↔ ∃ x, i = .ldSTVx x) ∧
    (dispClear i = true → t.disp = blankDisplay) ∧
    (∀ c, dispDraw i s = some c → t.disp = (c.perform s).1 ∧ dispCollision i s = some (c.perform s).2 ∧
      t.readV VF = if (c.perform s).2 then 1 else 0) ∧
    (dispClear i = false → dispDraw i s = none → t.disp = s.disp) ∧
    (∀ c, dispDraw i s = some c ↔ ∃ x y n, i = .drw x y n ∧ c = ⟨s.readV x, s.readV y, n, s.i⟩) ∧
    faultOut (exec i s) = none) ∧
  (∀ (i : Instr) (s : State) (f : Fault), exec i s = .fault f →
    faultOut (exec i s) = some f ∧ memPort i s = [] ∧ dtWe i s = false ∧ stWe i s = false ∧ dispClear i = false ∧
    dispDraw i s = none ∧ dispCollision i s = none) ∧
  (∀ s : State, (s.awaitingKey = none → s.awaitingKeyOut = 0) ∧
    (∀ x, s.awaitingKey = some x → s.awaitingKeyOut.toNat = 16 + x.val))
end

