-- ==== Sys2Proof/Laws/Decode.lean ====
section
/-! SUPPORT. The small laws of nibbles, immediates and register fields that decoding proofs cite: everything is brought down to
`toNat`, where omega finishes. -/

namespace Sys2Proof

/-! ### Words and nibbles as numbers -/

/-- Or-ing in a nibble below a shifted number adds it. -/
theorem shiftLeft_or_nibble (m : Nat) (a : Nibble) : (m <<< 4) ||| a.toNat = m * 16 + a.toNat := by
  rw [← Nat.shiftLeft_add_eq_or_of_lt a.isLt, Nat.shiftLeft_eq]

theorem ofNibbles_toNat (a b c d : Nibble) :
    (ofNibbles a b c d).toNat = a.toNat * 4096 + b.toNat * 256 + c.toNat * 16 + d.toNat := by
  simp only [ofNibbles, BitVec.toNat_append, shiftLeft_or_nibble]; omega

theorem nib1_toNat (w : Word) : (nib1 w).toNat = w.toNat / 4096 := by
  have := w.isLt
  simp [nib1, BitVec.extractLsb'_toNat, Nat.shiftRight_eq_div_pow]; omega

theorem nib2_toNat (w : Word) : (nib2 w).toNat = w.toNat / 256 % 16 := by
  simp [nib2, BitVec.extractLsb'_toNat, Nat.shiftRight_eq_div_pow]

theorem nib3_toNat (w : Word) : (nib3 w).toNat = w.toNat / 16 % 16 := by
  simp [nib3, BitVec.extractLsb'_toNat, Nat.shiftRight_eq_div_pow]

theorem nib4_toNat (w : Word) : (nib4 w).toNat = w.toNat % 16 := by
  simp [nib4, BitVec.extractLsb'_toNat]

/-- A word is the word of its nibbles. -/
theorem ofNibbles_nibs (w : Word) : ofNibbles (nib1 w) (nib2 w) (nib3 w) (nib4 w) = w := by
  apply BitVec.eq_of_toNat_eq
  rw [ofNibbles_toNat, nib1_toNat, nib2_toNat, nib3_toNat, nib4_toNat]; omega

@[simp] theorem nib1_ofNibbles (a b c d : Nibble) : nib1 (ofNibbles a b c d) = a := by
  apply BitVec.eq_of_toNat_eq; rw [nib1_toNat, ofNibbles_toNat]; omega

@[simp] theorem nib2_ofNibbles (a b c d : Nibble) : nib2 (ofNibbles a b c d) = b := by
  apply BitVec.eq_of_toNat_eq; rw [nib2_toNat, ofNibbles_toNat]; omega

@[simp] theorem nib3_ofNibbles (a b c d : Nibble) : nib3 (ofNibbles a b c d) = c := by
  apply BitVec.eq_of_toNat_eq; rw [nib3_toNat, ofNibbles_toNat]; omega

@[simp] theorem nib4_ofNibbles (a b c d : Nibble) : nib4 (ofNibbles a b c d) = d := by
  apply BitVec.eq_of_toNat_eq; rw [nib4_toNat, ofNibbles_toNat]; omega

/-! ### Immediates -/

theorem immNN_toNat (w : Word) : (immNN w).toNat = w.toNat % 256 := by
  simp only [immNN, assembleNibbles, List.foldl, shiftLeft_or_nibble, BitVec.toNat_ofNat]
  rw [nib3_toNat, nib4_toNat]; omega

theorem immNNN_toNat (w : Word) : (immNNN w).toNat = w.toNat % 4096 := by
  simp only [immNNN, assembleNibbles, List.foldl, shiftLeft_or_nibble, BitVec.toNat_ofNat]
  rw [nib2_toNat, nib3_toNat, nib4_toNat]; omega

/-! ### Register fields -/

@[simp] theorem regOfNibble_nibbleOfReg (r : Reg) : regOfNibble (nibbleOfReg r) = r := by
  apply Fin.ext; simp [regOfNibble, nibbleOfReg]

@[simp] theorem nibbleOfReg_regOfNibble (n : Nibble) : nibbleOfReg (regOfNibble n) = n := by
  apply BitVec.eq_of_toNat_eq; simp [regOfNibble, nibbleOfReg]

theorem nibbleOfReg_toNat (r : Reg) : (nibbleOfReg r).toNat = r.val := by simp [nibbleOfReg]

theorem regX_val (w : Word) : (regX w).val = w.toNat / 256 % 16 := by simp [regX, regOfNibble, nib2_toNat]

theorem regY_val (w : Word) : (regY w).val = w.toNat / 16 % 16 := by simp [regY, regOfNibble, nib3_toNat]

/-! ### The encoding forms as numbers, and the fields read back from them -/

theorem encNNN_toNat (f : Nibble) (nnn : Imm12) : (encNNN f nnn).toNat = f.toNat * 4096 + nnn.toNat := by
  have := nnn.isLt
  simp only [encNNN, ofNibbles_toNat, BitVec.extractLsb'_toNat, Nat.shiftRight_eq_div_pow]; omega

theorem encXNN_toNat (f : Nibble) (x : Reg) (nn : Byte) :
    (encXNN f x nn).toNat = f.toNat * 4096 + x.val * 256 + nn.toNat := by
  have := nn.isLt
  simp only [encXNN, ofNibbles_toNat, nibbleOfReg_toNat, BitVec.extractLsb'_toNat, Nat.shiftRight_eq_div_pow]; omega

theorem encXY_toNat (f : Nibble) (x y : Reg) (n : Nibble) :
    (encXY f x y n).toNat = f.toNat * 4096 + x.val * 256 + y.val * 16 + n.toNat := by
  simp only [encXY, ofNibbles_toNat, nibbleOfReg_toNat]

theorem encXFF_toNat (f : Nibble) (x : Reg) (a b : Nibble) :
    (encXFF f x a b).toNat = f.toNat * 4096 + x.val * 256 + a.toNat * 16 + b.toNat := by
  simp only [encXFF, ofNibbles_toNat, nibbleOfReg_toNat]

@[simp] theorem immNNN_encNNN (f : Nibble) (nnn : Imm12) : immNNN (encNNN f nnn) = nnn := by
  apply BitVec.eq_of_toNat_eq; have := nnn.isLt; rw [immNNN_toNat, encNNN_toNat]; omega

@[simp] theorem immNN_encXNN (f : Nibble) (x : Reg) (nn : Byte) : immNN (encXNN f x nn) = nn := by
  apply BitVec.eq_of_toNat_eq; have := nn.isLt; rw [immNN_toNat, encXNN_toNat]; omega

@[simp] theorem regX_encXNN (f : Nibble) (x : Reg) (nn : Byte) : regX (encXNN f x nn) = x := by
  simp [regX, encXNN]

@[simp] theorem regX_encXY (f : Nibble) (x y : Reg) (n : Nibble) : regX (encXY f x y n) = x := by
  simp [regX, encXY]

@[simp] theorem regY_encXY (f : Nibble) (x y : Reg) (n : Nibble) : regY (encXY f x y n) = y := by
  simp [regY, encXY]

@[simp] theorem regX_encXFF (f : Nibble) (x : Reg) (a b : Nibble) : regX (encXFF f x a b) = x := by
  simp [regX, encXFF]

/-! ### A word is its form applied to its fields -/

theorem encNNN_fields {w : Word} {f : Nibble} (h : nib1 w = f) : encNNN f (immNNN w) = w := by
  subst h; apply BitVec.eq_of_toNat_eq; have := w.isLt
  rw [encNNN_toNat, immNNN_toNat, nib1_toNat]; omega

theorem encXNN_fields {w : Word} {f : Nibble} (h : nib1 w = f) : encXNN f (regX w) (immNN w) = w := by
  subst h; apply BitVec.eq_of_toNat_eq; have := w.isLt
  rw [encXNN_toNat, regX_val, immNN_toNat, nib1_toNat]; omega

theorem encXY_fields {w : Word} {f n : Nibble} (h : nib1 w = f) (h4 : nib4 w = n) :
    encXY f (regX w) (regY w) n = w := by
  subst h h4; apply BitVec.eq_of_toNat_eq; have := w.isLt
  rw [encXY_toNat, regX_val, regY_val, nib4_toNat, nib1_toNat]; omega

theorem encXFF_fields {w : Word} {f a n : Nibble} (h : nib1 w = f) (h3 : nib3 w = a) (h4 : nib4 w = n) :
    encXFF f (regX w) a n = w := by
  subst h h3 h4; apply BitVec.eq_of_toNat_eq; have := w.isLt
  rw [encXFF_toNat, regX_val, nib3_toNat, nib4_toNat, nib1_toNat]; omega

/-! ### Operand bits or-ed into an opcode -/

theorem ofNibbles_or (a b c d e f g h : Nibble) :
    ofNibbles a b c d ||| ofNibbles e f g h = ofNibbles (a ||| e) (b ||| f) (c ||| g) (d ||| h) := by
  unfold ofNibbles
  rw [← BitVec.or_append, ← BitVec.or_append, ← BitVec.or_append]

theorem atX_eq (x : Reg) : atX x = ofNibbles 0 (nibbleOfReg x) 0 0 := by
  apply BitVec.eq_of_toNat_eq
  rw [ofNibbles_toNat, nibbleOfReg_toNat]; simp [atX, Nat.shiftLeft_eq]; omega

theorem atY_eq (y : Reg) : atY y = ofNibbles 0 0 (nibbleOfReg y) 0 := by
  apply BitVec.eq_of_toNat_eq
  rw [ofNibbles_toNat, nibbleOfReg_toNat]; simp [atY, Nat.shiftLeft_eq]; omega

theorem atNN_eq (nn : Byte) : atNN nn = ofNibbles 0 0 (nn.extractLsb' 4 4) (nn.extractLsb' 0 4) := by
  apply BitVec.eq_of_toNat_eq; have := nn.isLt
  simp only [atNN, ofNibbles_toNat, BitVec.extractLsb'_toNat, BitVec.toNat_setWidth, Nat.shiftRight_eq_div_pow]; simp; omega

theorem atNNN_eq (nnn : Imm12) : atNNN nnn = encNNN 0 nnn := by
  apply BitVec.eq_of_toNat_eq; have := nnn.isLt
  rw [encNNN_toNat]; simp only [atNNN, BitVec.toNat_setWidth]; simp; omega

theorem atN_eq (n : Nibble) : n.setWidth 16 = ofNibbles 0 0 0 n := by
  apply BitVec.eq_of_toNat_eq; have := n.isLt
  rw [ofNibbles_toNat]; simp; omega

/-- The forms of 30_encoding.md R81 as an opcode with its operands or-ed in. A numeral such as `0x1000` is `ofNibbles 1 0 0 0` by
`rfl`. -/
theorem or_atNNN (f : Nibble) (nnn : Imm12) : ofNibbles f 0 0 0 ||| atNNN nnn = encNNN f nnn := by
  rw [atNNN_eq, encNNN, encNNN, ofNibbles_or]; simp

theorem or_atX (f a b : Nibble) (x : Reg) : ofNibbles f 0 a b ||| atX x = encXFF f x a b := by
  rw [atX_eq, encXFF, ofNibbles_or]; simp

theorem or_atX_atNN (f : Nibble) (x : Reg) (nn : Byte) : ofNibbles f 0 0 0 ||| atX x ||| atNN nn = encXNN f x nn := by
  rw [atX_eq, atNN_eq, encXNN, ofNibbles_or, ofNibbles_or]; simp

theorem or_atX_atY (f n : Nibble) (x y : Reg) : ofNibbles f 0 0 n ||| atX x ||| atY y = encXY f x y n := by
  rw [atX_eq, atY_eq, encXY, ofNibbles_or, ofNibbles_or]; simp

theorem or_atX_atY_n (f n : Nibble) (x y : Reg) :
    ofNibbles f 0 0 0 ||| atX x ||| atY y ||| n.setWidth 16 = encXY f x y n := by
  rw [atX_eq, atY_eq, atN_eq, encXY, ofNibbles_or, ofNibbles_or, ofNibbles_or]; simp

/-! ### The two bytes of a word -/

theorem wordOfBytes_toNat (hi lo : Byte) : (wordOfBytes hi lo).toNat = hi.toNat * 256 + lo.toNat := by
  simp only [wordOfBytes, BitVec.toNat_append]
  rw [← Nat.shiftLeft_add_eq_or_of_lt lo.isLt, Nat.shiftLeft_eq]

@[simp] theorem wordOfBytes_bytes (w : Word) : wordOfBytes (highByte w) (lowByte w) = w := by
  apply BitVec.eq_of_toNat_eq
  have := w.isLt
  simp only [wordOfBytes_toNat, highByte, lowByte, BitVec.extractLsb'_toNat, Nat.shiftRight_eq_div_pow]; omega

/-- The high byte of a word built from two bytes. -/
@[simp] theorem highByte_wordOfBytes (hi lo : Byte) : highByte (wordOfBytes hi lo) = hi := by
  apply BitVec.eq_of_toNat_eq
  have := hi.isLt; have := lo.isLt
  simp only [highByte, BitVec.extractLsb'_toNat, wordOfBytes_toNat, Nat.shiftRight_eq_div_pow]; omega

/-- The low byte of a word built from two bytes. -/
@[simp] theorem lowByte_wordOfBytes (hi lo : Byte) : lowByte (wordOfBytes hi lo) = lo := by
  apply BitVec.eq_of_toNat_eq
  have := lo.isLt
  simp only [lowByte, BitVec.extractLsb'_toNat, wordOfBytes_toNat, Nat.shiftRight_eq_div_pow]; omega

end Sys2Proof
end

