-- ==== Sys2Proof/Laws/Memory.lean ====
section
/-! SUPPORT. The laws of memory: every operation keeps the canonical form and stays inside the address space, a read after a
write gives the written byte, and a write leaves every other address alone. -/

namespace Sys2Proof.Machine

/-! ### Single writes -/

theorem Memory.mem_put {a : Nat} {b : Byte} {m : Memory} {c : Host.Cell} (h : c ∈ Memory.put a b m) :
    c = (a, b) ∨ c ∈ m := by
  unfold Memory.put at h
  split at h
  · exact .inr h
  · simpa using h

/-- The cells after a write are the written one and old ones. -/
theorem Memory.mem_write {m : Memory} {a : Nat} {b : Byte} {c : Host.Cell} (h : c ∈ m.write a b) :
    c = (a, b) ∨ c ∈ m := by
  induction m with
  | nil => exact Memory.mem_put h
  | cons d m ih =>
    obtain ⟨k, e⟩ := d
    simp only [Memory.write] at h
    split at h
    · exact Memory.mem_put h
    · split at h
      · exact (Memory.mem_put h).imp id (List.mem_cons_of_mem _)
      · rcases List.mem_cons.1 h with rfl | h
        · exact .inr List.mem_cons_self
        · exact (ih h).imp id (List.mem_cons_of_mem _)

theorem Memory.put_wf {a : Nat} {b : Byte} {m : Memory} (h : Memory.wf m) (hlt : ∀ c ∈ m, a < c.1) :
    Memory.wf (Memory.put a b m) := by
  unfold Memory.put
  split
  · exact h
  · next hb =>
    refine ⟨List.pairwise_cons.2 ⟨hlt, h.1⟩, ?_⟩
    intro c hc
    rcases List.mem_cons.1 hc with rfl | hc
    · exact hb
    · exact h.2 c hc

theorem Memory.wf_tail {d : Host.Cell} {m : Memory} (h : Memory.wf (d :: m)) : Memory.wf m :=
  ⟨(List.pairwise_cons.1 h.1).2, fun c hc => h.2 c (List.mem_cons_of_mem _ hc)⟩

/-- A write keeps the canonical form. -/
theorem Memory.write_wf {m : Memory} (a : Nat) (b : Byte) (h : Memory.wf m) : Memory.wf (m.write a b) := by
  induction m with
  | nil => exact Memory.put_wf h (by simp)
  | cons d m ih =>
    obtain ⟨k, e⟩ := d
    have hk := (List.pairwise_cons.1 h.1).1
    simp only [Memory.write]
    split
    · next hlt =>
      apply Memory.put_wf h
      intro c hc
      rcases List.mem_cons.1 hc with rfl | hc
      · exact hlt
      · exact Nat.lt_trans hlt (hk c hc)
    · split
      · next heq => subst heq; exact Memory.put_wf (Memory.wf_tail h) hk
      · next hge hne =>
        have ht := ih (Memory.wf_tail h)
        refine ⟨List.pairwise_cons.2 ⟨?_, ht.1⟩, ?_⟩
        · intro c hc
          rcases Memory.mem_write hc with rfl | hc
          · show k < a; omega
          · exact hk c hc
        · intro c hc
          rcases List.mem_cons.1 hc with rfl | hc
          · exact h.2 _ List.mem_cons_self
          · exact ht.2 c hc

/-- A write below a bound stays inside it. -/
theorem Memory.write_inside {m : Memory} {a n : Nat} (b : Byte) (h : Memory.inside m n) (ha : a < n) :
    Memory.inside (m.write a b) n := by
  intro c hc
  rcases Memory.mem_write hc with rfl | hc
  · exact ha
  · exact h c hc

/-- An address below every listed one reads as unlisted. -/
theorem Memory.read_of_lt {m : Memory} {a : Nat} (h : ∀ c ∈ m, a < c.1) : m.read a = unlistedByte a := by
  induction m with
  | nil => rfl
  | cons d m ih =>
    obtain ⟨k, e⟩ := d
    have hk : a < k := h (k, e) List.mem_cons_self
    simp only [Memory.read, if_neg (Nat.ne_of_lt hk)]
    exact ih fun c hc => h c (List.mem_cons_of_mem _ hc)

theorem Memory.read_put {a : Nat} {b : Byte} {m : Memory} (hlt : ∀ c ∈ m, a < c.1) (c : Nat) :
    (Memory.put a b m).read c = if c = a then b else m.read c := by
  unfold Memory.put
  split
  · next hb =>
    split
    · next hc => subst hc; rw [Memory.read_of_lt hlt, hb]
    · rfl
  · rfl

/-- Read after write: the written byte at the written address, the old byte everywhere else. -/
theorem Memory.read_write {m : Memory} (h : Memory.wf m) (a : Nat) (b : Byte) (c : Nat) :
    (m.write a b).read c = if c = a then b else m.read c := by
  induction m with
  | nil => exact Memory.read_put (by simp) c
  | cons d m ih =>
    obtain ⟨k, e⟩ := d
    have hk := (List.pairwise_cons.1 h.1).1
    simp only [Memory.write]
    split
    · next hlt =>
      apply Memory.read_put
      intro c hc
      rcases List.mem_cons.1 hc with rfl | hc
      · exact hlt
      · exact Nat.lt_trans hlt (hk c hc)
    · split
      · next heq =>
        subst heq
        rw [Memory.read_put hk]
        split
        · rfl
        · next hc => simp only [Memory.read, if_neg hc]
      · next hge hne =>
        simp only [Memory.read, ih (Memory.wf_tail h)]
        split
        · next hc => subst hc; rw [if_neg (fun e => hne e.symm)]
        · rfl

/-! ### Block writes -/

/-- A block write keeps the canonical form. -/
theorem Memory.writeList_wf {m : Memory} (h : Memory.wf m) (base : Nat) (bs : List Byte) :
    Memory.wf (m.writeList base bs) := by
  induction bs generalizing m base with
  | nil => exact h
  | cons b bs ih => exact ih (Memory.write_wf base b h) (base + 1)

/-- A block write below a bound stays inside it. -/
theorem Memory.writeList_inside {m : Memory} {n : Nat} (h : Memory.inside m n) {base : Nat} {bs : List Byte}
    (hb : base + bs.length ≤ n) : Memory.inside (m.writeList base bs) n := by
  induction bs generalizing m base with
  | nil => exact h
  | cons b bs ih =>
    simp only [List.length_cons] at hb
    exact ih (Memory.write_inside b h (by omega)) (by omega)

/-- A block write leaves every address outside the block alone. -/
theorem Memory.read_writeList_outside {m : Memory} (h : Memory.wf m) {base c : Nat} {bs : List Byte}
    (hc : c < base ∨ base + bs.length ≤ c) : (m.writeList base bs).read c = m.read c := by
  induction bs generalizing m base with
  | nil => rfl
  | cons b bs ih =>
    simp only [List.length_cons] at hc
    rw [Memory.writeList, ih (Memory.write_wf base b h) (by omega), Memory.read_write h, if_neg (by omega)]

/-- A block write puts its `k`-th byte at `base + k`. -/
theorem Memory.read_writeList_inside {m : Memory} (h : Memory.wf m) {base k : Nat} {bs : List Byte} (hk : k < bs.length) :
    (m.writeList base bs).read (base + k) = bs[k] := by
  induction bs generalizing m base k with
  | nil => simp at hk
  | cons b bs ih =>
    have hw := Memory.write_wf base b h
    cases k with
    | zero => rw [Memory.writeList, Memory.read_writeList_outside hw (by omega), Memory.read_write h]; simp
    | succ k =>
      have := ih hw (base := base + 1) (k := k) (by simpa using hk)
      rw [Memory.writeList, show base + (k + 1) = base + 1 + k by omega, this]; rfl

/-! ### The loader's memory -/

/-- An image written cell by cell keeps the canonical form. -/
theorem Memory.foldl_write_wf {m : Memory} (h : Memory.wf m) (cs : List Host.Cell) :
    Memory.wf (cs.foldl (fun m c => Memory.write m c.1 c.2) m) := by
  induction cs generalizing m with
  | nil => exact h
  | cons c cs ih => exact ih (Memory.write_wf c.1 c.2 h)

/-- An image below a bound, written cell by cell, stays inside it. -/
theorem Memory.foldl_write_inside {m : Memory} {n : Nat} (h : Memory.inside m n) {cs : List Host.Cell}
    (hc : ∀ c ∈ cs, c.1 < n) : Memory.inside (cs.foldl (fun m c => Memory.write m c.1 c.2) m) n := by
  induction cs generalizing m with
  | nil => exact h
  | cons c cs ih =>
    exact ih (Memory.write_inside c.2 h (hc c List.mem_cons_self)) fun d hd => hc d (List.mem_cons_of_mem _ hd)

/-- Empty memory has the canonical form. -/
theorem Memory.nil_wf : Memory.wf [] := ⟨List.Pairwise.nil, by simp⟩

/-- The loader's memory has the canonical form. -/
theorem Launch.memory_wf (l : Launch) : Memory.wf l.memory :=
  Memory.writeList_wf (Memory.foldl_write_wf Memory.nil_wf l.image) _ _

/-- The memory of a launch that fits lies below `MEM_SIZE`. -/
theorem Launch.memory_inside {l : Launch} {n : Nat} (h : l.fits n) : Memory.inside l.memory n :=
  Memory.writeList_inside (Memory.foldl_write_inside (by simp [Memory.inside]) h.2) h.1

/-- Memory after reset has the canonical form. -/
theorem State.reset_memory_wf : Memory.wf State.reset.memory := Memory.nil_wf

end Sys2Proof.Machine
end

