-- ==== Sys2Proof/Laws/State.lean ====
section
/-! SUPPORT. What each named update leaves in each field of the state, one lemma per field per update, all by rfl. -/

namespace Sys2Proof.Machine

section FieldsOfUpdates

variable (s : State)

/-! ### `writeV` -/

@[simp] theorem State.writeV_i (x : Reg) (b : Byte) : (s.writeV x b).i = s.i := rfl
@[simp] theorem State.writeV_pc (x : Reg) (b : Byte) : (s.writeV x b).pc = s.pc := rfl
@[simp] theorem State.writeV_stack (x : Reg) (b : Byte) : (s.writeV x b).stack = s.stack := rfl
@[simp] theorem State.writeV_awaitingKey (x : Reg) (b : Byte) : (s.writeV x b).awaitingKey = s.awaitingKey := rfl
@[simp] theorem State.writeV_memory (x : Reg) (b : Byte) : (s.writeV x b).memory = s.memory := rfl
@[simp] theorem State.writeV_disp (x : Reg) (b : Byte) : (s.writeV x b).disp = s.disp := rfl
@[simp] theorem State.writeV_dt (x : Reg) (b : Byte) : (s.writeV x b).dt = s.dt := rfl
@[simp] theorem State.writeV_st (x : Reg) (b : Byte) : (s.writeV x b).st = s.st := rfl
@[simp] theorem State.writeV_key (x : Reg) (b : Byte) : (s.writeV x b).key = s.key := rfl
@[simp] theorem State.writeV_fault (x : Reg) (b : Byte) : (s.writeV x b).fault = s.fault := rfl
@[simp] theorem State.writeV_cfg (x : Reg) (b : Byte) : (s.writeV x b).cfg = s.cfg := rfl
@[simp] theorem State.writeV_schedule (x : Reg) (b : Byte) : (s.writeV x b).schedule = s.schedule := rfl
@[simp] theorem State.writeV_randIn (x : Reg) (b : Byte) : (s.writeV x b).randIn = s.randIn := rfl
@[simp] theorem State.writeV_pickIn (x : Reg) (b : Byte) : (s.writeV x b).pickIn = s.pickIn := rfl
@[simp] theorem State.writeV_draws (x : Reg) (b : Byte) : (s.writeV x b).draws = s.draws := rfl
@[simp] theorem State.writeV_byteAt (x : Reg) (b : Byte) (a : Nat) : (s.writeV x b).byteAt a = s.byteAt a := rfl
@[simp] theorem State.writeV_pressed (x : Reg) (b : Byte) (j : Fin 16) : (s.writeV x b).pressed j = s.pressed j := rfl

/-! ### `writeVs` -/

@[simp] theorem State.writeVs_i (bs : List Byte) : (s.writeVs bs).i = s.i := rfl
@[simp] theorem State.writeVs_pc (bs : List Byte) : (s.writeVs bs).pc = s.pc := rfl
@[simp] theorem State.writeVs_stack (bs : List Byte) : (s.writeVs bs).stack = s.stack := rfl
@[simp] theorem State.writeVs_awaitingKey (bs : List Byte) : (s.writeVs bs).awaitingKey = s.awaitingKey := rfl
@[simp] theorem State.writeVs_memory (bs : List Byte) : (s.writeVs bs).memory = s.memory := rfl
@[simp] theorem State.writeVs_disp (bs : List Byte) : (s.writeVs bs).disp = s.disp := rfl
@[simp] theorem State.writeVs_dt (bs : List Byte) : (s.writeVs bs).dt = s.dt := rfl
@[simp] theorem State.writeVs_st (bs : List Byte) : (s.writeVs bs).st = s.st := rfl
@[simp] theorem State.writeVs_key (bs : List Byte) : (s.writeVs bs).key = s.key := rfl
@[simp] theorem State.writeVs_fault (bs : List Byte) : (s.writeVs bs).fault = s.fault := rfl
@[simp] theorem State.writeVs_cfg (bs : List Byte) : (s.writeVs bs).cfg = s.cfg := rfl
@[simp] theorem State.writeVs_schedule (bs : List Byte) : (s.writeVs bs).schedule = s.schedule := rfl
@[simp] theorem State.writeVs_randIn (bs : List Byte) : (s.writeVs bs).randIn = s.randIn := rfl
@[simp] theorem State.writeVs_pickIn (bs : List Byte) : (s.writeVs bs).pickIn = s.pickIn := rfl
@[simp] theorem State.writeVs_draws (bs : List Byte) : (s.writeVs bs).draws = s.draws := rfl
@[simp] theorem State.writeVs_byteAt (bs : List Byte) (a : Nat) : (s.writeVs bs).byteAt a = s.byteAt a := rfl
@[simp] theorem State.writeVs_pressed (bs : List Byte) (j : Fin 16) : (s.writeVs bs).pressed j = s.pressed j := rfl

/-! ### `setI` -/

@[simp] theorem State.setI_v (w : Word) : (s.setI w).v = s.v := rfl
@[simp] theorem State.setI_i (w : Word) : (s.setI w).i = w := rfl
@[simp] theorem State.setI_pc (w : Word) : (s.setI w).pc = s.pc := rfl
@[simp] theorem State.setI_stack (w : Word) : (s.setI w).stack = s.stack := rfl
@[simp] theorem State.setI_awaitingKey (w : Word) : (s.setI w).awaitingKey = s.awaitingKey := rfl
@[simp] theorem State.setI_memory (w : Word) : (s.setI w).memory = s.memory := rfl
@[simp] theorem State.setI_disp (w : Word) : (s.setI w).disp = s.disp := rfl
@[simp] theorem State.setI_dt (w : Word) : (s.setI w).dt = s.dt := rfl
@[simp] theorem State.setI_st (w : Word) : (s.setI w).st = s.st := rfl
@[simp] theorem State.setI_key (w : Word) : (s.setI w).key = s.key := rfl
@[simp] theorem State.setI_fault (w : Word) : (s.setI w).fault = s.fault := rfl
@[simp] theorem State.setI_cfg (w : Word) : (s.setI w).cfg = s.cfg := rfl
@[simp] theorem State.setI_schedule (w : Word) : (s.setI w).schedule = s.schedule := rfl
@[simp] theorem State.setI_randIn (w : Word) : (s.setI w).randIn = s.randIn := rfl
@[simp] theorem State.setI_pickIn (w : Word) : (s.setI w).pickIn = s.pickIn := rfl
@[simp] theorem State.setI_draws (w : Word) : (s.setI w).draws = s.draws := rfl
@[simp] theorem State.setI_readV (w : Word) (r : Reg) : (s.setI w).readV r = s.readV r := rfl
@[simp] theorem State.setI_byteAt (w : Word) (a : Nat) : (s.setI w).byteAt a = s.byteAt a := rfl
@[simp] theorem State.setI_pressed (w : Word) (j : Fin 16) : (s.setI w).pressed j = s.pressed j := rfl

/-! ### `setPc` -/

@[simp] theorem State.setPc_v (w : Word) : (s.setPc w).v = s.v := rfl
@[simp] theorem State.setPc_i (w : Word) : (s.setPc w).i = s.i := rfl
@[simp] theorem State.setPc_pc (w : Word) : (s.setPc w).pc = w := rfl
@[simp] theorem State.setPc_stack (w : Word) : (s.setPc w).stack = s.stack := rfl
@[simp] theorem State.setPc_awaitingKey (w : Word) : (s.setPc w).awaitingKey = s.awaitingKey := rfl
@[simp] theorem State.setPc_memory (w : Word) : (s.setPc w).memory = s.memory := rfl
@[simp] theorem State.setPc_disp (w : Word) : (s.setPc w).disp = s.disp := rfl
@[simp] theorem State.setPc_dt (w : Word) : (s.setPc w).dt = s.dt := rfl
@[simp] theorem State.setPc_st (w : Word) : (s.setPc w).st = s.st := rfl
@[simp] theorem State.setPc_key (w : Word) : (s.setPc w).key = s.key := rfl
@[simp] theorem State.setPc_fault (w : Word) : (s.setPc w).fault = s.fault := rfl
@[simp] theorem State.setPc_cfg (w : Word) : (s.setPc w).cfg = s.cfg := rfl
@[simp] theorem State.setPc_schedule (w : Word) : (s.setPc w).schedule = s.schedule := rfl
@[simp] theorem State.setPc_randIn (w : Word) : (s.setPc w).randIn = s.randIn := rfl
@[simp] theorem State.setPc_pickIn (w : Word) : (s.setPc w).pickIn = s.pickIn := rfl
@[simp] theorem State.setPc_draws (w : Word) : (s.setPc w).draws = s.draws := rfl
@[simp] theorem State.setPc_readV (w : Word) (r : Reg) : (s.setPc w).readV r = s.readV r := rfl
@[simp] theorem State.setPc_byteAt (w : Word) (a : Nat) : (s.setPc w).byteAt a = s.byteAt a := rfl
@[simp] theorem State.setPc_pressed (w : Word) (j : Fin 16) : (s.setPc w).pressed j = s.pressed j := rfl

/-! ### `advance` -/

@[simp] theorem State.advance_v : (s.advance).v = s.v := rfl
@[simp] theorem State.advance_i : (s.advance).i = s.i := rfl
@[simp] theorem State.advance_pc : (s.advance).pc = s.pc + 2 := rfl
@[simp] theorem State.advance_stack : (s.advance).stack = s.stack := rfl
@[simp] theorem State.advance_awaitingKey : (s.advance).awaitingKey = s.awaitingKey := rfl
@[simp] theorem State.advance_memory : (s.advance).memory = s.memory := rfl
@[simp] theorem State.advance_disp : (s.advance).disp = s.disp := rfl
@[simp] theorem State.advance_dt : (s.advance).dt = s.dt := rfl
@[simp] theorem State.advance_st : (s.advance).st = s.st := rfl
@[simp] theorem State.advance_key : (s.advance).key = s.key := rfl
@[simp] theorem State.advance_fault : (s.advance).fault = s.fault := rfl
@[simp] theorem State.advance_cfg : (s.advance).cfg = s.cfg := rfl
@[simp] theorem State.advance_schedule : (s.advance).schedule = s.schedule := rfl
@[simp] theorem State.advance_randIn : (s.advance).randIn = s.randIn := rfl
@[simp] theorem State.advance_pickIn : (s.advance).pickIn = s.pickIn := rfl
@[simp] theorem State.advance_draws : (s.advance).draws = s.draws := rfl
@[simp] theorem State.advance_readV (r : Reg) : (s.advance).readV r = s.readV r := rfl
@[simp] theorem State.advance_byteAt (a : Nat) : (s.advance).byteAt a = s.byteAt a := rfl
@[simp] theorem State.advance_pressed (j : Fin 16) : (s.advance).pressed j = s.pressed j := rfl

/-! ### `skipIf` -/

@[simp] theorem State.skipIf_v (c : Bool) : (s.skipIf c).v = s.v := rfl
@[simp] theorem State.skipIf_i (c : Bool) : (s.skipIf c).i = s.i := rfl
@[simp] theorem State.skipIf_pc (c : Bool) : (s.skipIf c).pc = s.pc + if c then 4 else 2 := rfl
@[simp] theorem State.skipIf_stack (c : Bool) : (s.skipIf c).stack = s.stack := rfl
@[simp] theorem State.skipIf_awaitingKey (c : Bool) : (s.skipIf c).awaitingKey = s.awaitingKey := rfl
@[simp] theorem State.skipIf_memory (c : Bool) : (s.skipIf c).memory = s.memory := rfl
@[simp] theorem State.skipIf_disp (c : Bool) : (s.skipIf c).disp = s.disp := rfl
@[simp] theorem State.skipIf_dt (c : Bool) : (s.skipIf c).dt = s.dt := rfl
@[simp] theorem State.skipIf_st (c : Bool) : (s.skipIf c).st = s.st := rfl
@[simp] theorem State.skipIf_key (c : Bool) : (s.skipIf c).key = s.key := rfl
@[simp] theorem State.skipIf_fault (c : Bool) : (s.skipIf c).fault = s.fault := rfl
@[simp] theorem State.skipIf_cfg (c : Bool) : (s.skipIf c).cfg = s.cfg := rfl
@[simp] theorem State.skipIf_schedule (c : Bool) : (s.skipIf c).schedule = s.schedule := rfl
@[simp] theorem State.skipIf_randIn (c : Bool) : (s.skipIf c).randIn = s.randIn := rfl
@[simp] theorem State.skipIf_pickIn (c : Bool) : (s.skipIf c).pickIn = s.pickIn := rfl
@[simp] theorem State.skipIf_draws (c : Bool) : (s.skipIf c).draws = s.draws := rfl
@[simp] theorem State.skipIf_readV (c : Bool) (r : Reg) : (s.skipIf c).readV r = s.readV r := rfl
@[simp] theorem State.skipIf_byteAt (c : Bool) (a : Nat) : (s.skipIf c).byteAt a = s.byteAt a := rfl
@[simp] theorem State.skipIf_pressed (c : Bool) (j : Fin 16) : (s.skipIf c).pressed j = s.pressed j := rfl

/-! ### `setDt` -/

@[simp] theorem State.setDt_v (b : Byte) : (s.setDt b).v = s.v := rfl
@[simp] theorem State.setDt_i (b : Byte) : (s.setDt b).i = s.i := rfl
@[simp] theorem State.setDt_pc (b : Byte) : (s.setDt b).pc = s.pc := rfl
@[simp] theorem State.setDt_stack (b : Byte) : (s.setDt b).stack = s.stack := rfl
@[simp] theorem State.setDt_awaitingKey (b : Byte) : (s.setDt b).awaitingKey = s.awaitingKey := rfl
@[simp] theorem State.setDt_memory (b : Byte) : (s.setDt b).memory = s.memory := rfl
@[simp] theorem State.setDt_disp (b : Byte) : (s.setDt b).disp = s.disp := rfl
@[simp] theorem State.setDt_dt (b : Byte) : (s.setDt b).dt = b := rfl
@[simp] theorem State.setDt_st (b : Byte) : (s.setDt b).st = s.st := rfl
@[simp] theorem State.setDt_key (b : Byte) : (s.setDt b).key = s.key := rfl
@[simp] theorem State.setDt_fault (b : Byte) : (s.setDt b).fault = s.fault := rfl
@[simp] theorem State.setDt_cfg (b : Byte) : (s.setDt b).cfg = s.cfg := rfl
@[simp] theorem State.setDt_schedule (b : Byte) : (s.setDt b).schedule = s.schedule := rfl
@[simp] theorem State.setDt_randIn (b : Byte) : (s.setDt b).randIn = s.randIn := rfl
@[simp] theorem State.setDt_pickIn (b : Byte) : (s.setDt b).pickIn = s.pickIn := rfl
@[simp] theorem State.setDt_draws (b : Byte) : (s.setDt b).draws = s.draws := rfl
@[simp] theorem State.setDt_readV (b : Byte) (r : Reg) : (s.setDt b).readV r = s.readV r := rfl
@[simp] theorem State.setDt_byteAt (b : Byte) (a : Nat) : (s.setDt b).byteAt a = s.byteAt a := rfl
@[simp] theorem State.setDt_pressed (b : Byte) (j : Fin 16) : (s.setDt b).pressed j = s.pressed j := rfl

/-! ### `setSt` -/

@[simp] theorem State.setSt_v (b : Byte) : (s.setSt b).v = s.v := rfl
@[simp] theorem State.setSt_i (b : Byte) : (s.setSt b).i = s.i := rfl
@[simp] theorem State.setSt_pc (b : Byte) : (s.setSt b).pc = s.pc := rfl
@[simp] theorem State.setSt_stack (b : Byte) : (s.setSt b).stack = s.stack := rfl
@[simp] theorem State.setSt_awaitingKey (b : Byte) : (s.setSt b).awaitingKey = s.awaitingKey := rfl
@[simp] theorem State.setSt_memory (b : Byte) : (s.setSt b).memory = s.memory := rfl
@[simp] theorem State.setSt_disp (b : Byte) : (s.setSt b).disp = s.disp := rfl
@[simp] theorem State.setSt_dt (b : Byte) : (s.setSt b).dt = s.dt := rfl
@[simp] theorem State.setSt_st (b : Byte) : (s.setSt b).st = b := rfl
@[simp] theorem State.setSt_key (b : Byte) : (s.setSt b).key = s.key := rfl
@[simp] theorem State.setSt_fault (b : Byte) : (s.setSt b).fault = s.fault := rfl
@[simp] theorem State.setSt_cfg (b : Byte) : (s.setSt b).cfg = s.cfg := rfl
@[simp] theorem State.setSt_schedule (b : Byte) : (s.setSt b).schedule = s.schedule := rfl
@[simp] theorem State.setSt_randIn (b : Byte) : (s.setSt b).randIn = s.randIn := rfl
@[simp] theorem State.setSt_pickIn (b : Byte) : (s.setSt b).pickIn = s.pickIn := rfl
@[simp] theorem State.setSt_draws (b : Byte) : (s.setSt b).draws = s.draws := rfl
@[simp] theorem State.setSt_readV (b : Byte) (r : Reg) : (s.setSt b).readV r = s.readV r := rfl
@[simp] theorem State.setSt_byteAt (b : Byte) (a : Nat) : (s.setSt b).byteAt a = s.byteAt a := rfl
@[simp] theorem State.setSt_pressed (b : Byte) (j : Fin 16) : (s.setSt b).pressed j = s.pressed j := rfl

/-! ### `setAwaiting` -/

@[simp] theorem State.setAwaiting_v (w : Option Reg) : (s.setAwaiting w).v = s.v := rfl
@[simp] theorem State.setAwaiting_i (w : Option Reg) : (s.setAwaiting w).i = s.i := rfl
@[simp] theorem State.setAwaiting_pc (w : Option Reg) : (s.setAwaiting w).pc = s.pc := rfl
@[simp] theorem State.setAwaiting_stack (w : Option Reg) : (s.setAwaiting w).stack = s.stack := rfl
@[simp] theorem State.setAwaiting_awaitingKey (w : Option Reg) : (s.setAwaiting w).awaitingKey = w := rfl
@[simp] theorem State.setAwaiting_memory (w : Option Reg) : (s.setAwaiting w).memory = s.memory := rfl
@[simp] theorem State.setAwaiting_disp (w : Option Reg) : (s.setAwaiting w).disp = s.disp := rfl
@[simp] theorem State.setAwaiting_dt (w : Option Reg) : (s.setAwaiting w).dt = s.dt := rfl
@[simp] theorem State.setAwaiting_st (w : Option Reg) : (s.setAwaiting w).st = s.st := rfl
@[simp] theorem State.setAwaiting_key (w : Option Reg) : (s.setAwaiting w).key = s.key := rfl
@[simp] theorem State.setAwaiting_fault (w : Option Reg) : (s.setAwaiting w).fault = s.fault := rfl
@[simp] theorem State.setAwaiting_cfg (w : Option Reg) : (s.setAwaiting w).cfg = s.cfg := rfl
@[simp] theorem State.setAwaiting_schedule (w : Option Reg) : (s.setAwaiting w).schedule = s.schedule := rfl
@[simp] theorem State.setAwaiting_randIn (w : Option Reg) : (s.setAwaiting w).randIn = s.randIn := rfl
@[simp] theorem State.setAwaiting_pickIn (w : Option Reg) : (s.setAwaiting w).pickIn = s.pickIn := rfl
@[simp] theorem State.setAwaiting_draws (w : Option Reg) : (s.setAwaiting w).draws = s.draws := rfl
@[simp] theorem State.setAwaiting_readV (w : Option Reg) (r : Reg) : (s.setAwaiting w).readV r = s.readV r := rfl
@[simp] theorem State.setAwaiting_byteAt (w : Option Reg) (a : Nat) : (s.setAwaiting w).byteAt a = s.byteAt a := rfl
@[simp] theorem State.setAwaiting_pressed (w : Option Reg) (j : Fin 16) : (s.setAwaiting w).pressed j = s.pressed j := rfl

/-! ### `setFault` -/

@[simp] theorem State.setFault_v (f : Option Fault) : (s.setFault f).v = s.v := rfl
@[simp] theorem State.setFault_i (f : Option Fault) : (s.setFault f).i = s.i := rfl
@[simp] theorem State.setFault_pc (f : Option Fault) : (s.setFault f).pc = s.pc := rfl
@[simp] theorem State.setFault_stack (f : Option Fault) : (s.setFault f).stack = s.stack := rfl
@[simp] theorem State.setFault_awaitingKey (f : Option Fault) : (s.setFault f).awaitingKey = s.awaitingKey := rfl
@[simp] theorem State.setFault_memory (f : Option Fault) : (s.setFault f).memory = s.memory := rfl
@[simp] theorem State.setFault_disp (f : Option Fault) : (s.setFault f).disp = s.disp := rfl
@[simp] theorem State.setFault_dt (f : Option Fault) : (s.setFault f).dt = s.dt := rfl
@[simp] theorem State.setFault_st (f : Option Fault) : (s.setFault f).st = s.st := rfl
@[simp] theorem State.setFault_key (f : Option Fault) : (s.setFault f).key = s.key := rfl
@[simp] theorem State.setFault_fault (f : Option Fault) : (s.setFault f).fault = f := rfl
@[simp] theorem State.setFault_cfg (f : Option Fault) : (s.setFault f).cfg = s.cfg := rfl
@[simp] theorem State.setFault_schedule (f : Option Fault) : (s.setFault f).schedule = s.schedule := rfl
@[simp] theorem State.setFault_randIn (f : Option Fault) : (s.setFault f).randIn = s.randIn := rfl
@[simp] theorem State.setFault_pickIn (f : Option Fault) : (s.setFault f).pickIn = s.pickIn := rfl
@[simp] theorem State.setFault_draws (f : Option Fault) : (s.setFault f).draws = s.draws := rfl
@[simp] theorem State.setFault_readV (f : Option Fault) (r : Reg) : (s.setFault f).readV r = s.readV r := rfl
@[simp] theorem State.setFault_byteAt (f : Option Fault) (a : Nat) : (s.setFault f).byteAt a = s.byteAt a := rfl
@[simp] theorem State.setFault_pressed (f : Option Fault) (j : Fin 16) : (s.setFault f).pressed j = s.pressed j := rfl

/-! ### `setSchedule` -/

@[simp] theorem State.setSchedule_v (es : List Event) : (s.setSchedule es).v = s.v := rfl
@[simp] theorem State.setSchedule_i (es : List Event) : (s.setSchedule es).i = s.i := rfl
@[simp] theorem State.setSchedule_pc (es : List Event) : (s.setSchedule es).pc = s.pc := rfl
@[simp] theorem State.setSchedule_stack (es : List Event) : (s.setSchedule es).stack = s.stack := rfl
@[simp] theorem State.setSchedule_awaitingKey (es : List Event) : (s.setSchedule es).awaitingKey = s.awaitingKey := rfl
@[simp] theorem State.setSchedule_memory (es : List Event) : (s.setSchedule es).memory = s.memory := rfl
@[simp] theorem State.setSchedule_disp (es : List Event) : (s.setSchedule es).disp = s.disp := rfl
@[simp] theorem State.setSchedule_dt (es : List Event) : (s.setSchedule es).dt = s.dt := rfl
@[simp] theorem State.setSchedule_st (es : List Event) : (s.setSchedule es).st = s.st := rfl
@[simp] theorem State.setSchedule_key (es : List Event) : (s.setSchedule es).key = s.key := rfl
@[simp] theorem State.setSchedule_fault (es : List Event) : (s.setSchedule es).fault = s.fault := rfl
@[simp] theorem State.setSchedule_cfg (es : List Event) : (s.setSchedule es).cfg = s.cfg := rfl
@[simp] theorem State.setSchedule_schedule (es : List Event) : (s.setSchedule es).schedule = es := rfl
@[simp] theorem State.setSchedule_randIn (es : List Event) : (s.setSchedule es).randIn = s.randIn := rfl
@[simp] theorem State.setSchedule_pickIn (es : List Event) : (s.setSchedule es).pickIn = s.pickIn := rfl
@[simp] theorem State.setSchedule_draws (es : List Event) : (s.setSchedule es).draws = s.draws := rfl
@[simp] theorem State.setSchedule_readV (es : List Event) (r : Reg) : (s.setSchedule es).readV r = s.readV r := rfl
@[simp] theorem State.setSchedule_byteAt (es : List Event) (a : Nat) : (s.setSchedule es).byteAt a = s.byteAt a := rfl
@[simp] theorem State.setSchedule_pressed (es : List Event) (j : Fin 16) : (s.setSchedule es).pressed j = s.pressed j := rfl

/-! ### `setMemory` -/

@[simp] theorem State.setMemory_v (m : Memory) : (s.setMemory m).v = s.v := rfl
@[simp] theorem State.setMemory_i (m : Memory) : (s.setMemory m).i = s.i := rfl
@[simp] theorem State.setMemory_pc (m : Memory) : (s.setMemory m).pc = s.pc := rfl
@[simp] theorem State.setMemory_stack (m : Memory) : (s.setMemory m).stack = s.stack := rfl
@[simp] theorem State.setMemory_awaitingKey (m : Memory) : (s.setMemory m).awaitingKey = s.awaitingKey := rfl
@[simp] theorem State.setMemory_memory (m : Memory) : (s.setMemory m).memory = m := rfl
@[simp] theorem State.setMemory_disp (m : Memory) : (s.setMemory m).disp = s.disp := rfl
@[simp] theorem State.setMemory_dt (m : Memory) : (s.setMemory m).dt = s.dt := rfl
@[simp] theorem State.setMemory_st (m : Memory) : (s.setMemory m).st = s.st := rfl
@[simp] theorem State.setMemory_key (m : Memory) : (s.setMemory m).key = s.key := rfl
@[simp] theorem State.setMemory_fault (m : Memory) : (s.setMemory m).fault = s.fault := rfl
@[simp] theorem State.setMemory_cfg (m : Memory) : (s.setMemory m).cfg = s.cfg := rfl
@[simp] theorem State.setMemory_schedule (m : Memory) : (s.setMemory m).schedule = s.schedule := rfl
@[simp] theorem State.setMemory_randIn (m : Memory) : (s.setMemory m).randIn = s.randIn := rfl
@[simp] theorem State.setMemory_pickIn (m : Memory) : (s.setMemory m).pickIn = s.pickIn := rfl
@[simp] theorem State.setMemory_draws (m : Memory) : (s.setMemory m).draws = s.draws := rfl
@[simp] theorem State.setMemory_readV (m : Memory) (r : Reg) : (s.setMemory m).readV r = s.readV r := rfl
@[simp] theorem State.setMemory_pressed (m : Memory) (j : Fin 16) : (s.setMemory m).pressed j = s.pressed j := rfl

/-! ### `setStack` -/

@[simp] theorem State.setStack_v (ws : List Word) : (s.setStack ws).v = s.v := rfl
@[simp] theorem State.setStack_i (ws : List Word) : (s.setStack ws).i = s.i := rfl
@[simp] theorem State.setStack_pc (ws : List Word) : (s.setStack ws).pc = s.pc := rfl
@[simp] theorem State.setStack_stack (ws : List Word) : (s.setStack ws).stack = ws := rfl
@[simp] theorem State.setStack_awaitingKey (ws : List Word) : (s.setStack ws).awaitingKey = s.awaitingKey := rfl
@[simp] theorem State.setStack_memory (ws : List Word) : (s.setStack ws).memory = s.memory := rfl
@[simp] theorem State.setStack_disp (ws : List Word) : (s.setStack ws).disp = s.disp := rfl
@[simp] theorem State.setStack_dt (ws : List Word) : (s.setStack ws).dt = s.dt := rfl
@[simp] theorem State.setStack_st (ws : List Word) : (s.setStack ws).st = s.st := rfl
@[simp] theorem State.setStack_key (ws : List Word) : (s.setStack ws).key = s.key := rfl
@[simp] theorem State.setStack_fault (ws : List Word) : (s.setStack ws).fault = s.fault := rfl
@[simp] theorem State.setStack_cfg (ws : List Word) : (s.setStack ws).cfg = s.cfg := rfl
@[simp] theorem State.setStack_schedule (ws : List Word) : (s.setStack ws).schedule = s.schedule := rfl
@[simp] theorem State.setStack_randIn (ws : List Word) : (s.setStack ws).randIn = s.randIn := rfl
@[simp] theorem State.setStack_pickIn (ws : List Word) : (s.setStack ws).pickIn = s.pickIn := rfl
@[simp] theorem State.setStack_draws (ws : List Word) : (s.setStack ws).draws = s.draws := rfl
@[simp] theorem State.setStack_readV (ws : List Word) (r : Reg) : (s.setStack ws).readV r = s.readV r := rfl
@[simp] theorem State.setStack_byteAt (ws : List Word) (a : Nat) : (s.setStack ws).byteAt a = s.byteAt a := rfl
@[simp] theorem State.setStack_pressed (ws : List Word) (j : Fin 16) : (s.setStack ws).pressed j = s.pressed j := rfl

/-! ### `setDisp` -/

@[simp] theorem State.setDisp_v (d : Display) : (s.setDisp d).v = s.v := rfl
@[simp] theorem State.setDisp_i (d : Display) : (s.setDisp d).i = s.i := rfl
@[simp] theorem State.setDisp_pc (d : Display) : (s.setDisp d).pc = s.pc := rfl
@[simp] theorem State.setDisp_stack (d : Display) : (s.setDisp d).stack = s.stack := rfl
@[simp] theorem State.setDisp_awaitingKey (d : Display) : (s.setDisp d).awaitingKey = s.awaitingKey := rfl
@[simp] theorem State.setDisp_memory (d : Display) : (s.setDisp d).memory = s.memory := rfl
@[simp] theorem State.setDisp_disp (d : Display) : (s.setDisp d).disp = d := rfl
@[simp] theorem State.setDisp_dt (d : Display) : (s.setDisp d).dt = s.dt := rfl
@[simp] theorem State.setDisp_st (d : Display) : (s.setDisp d).st = s.st := rfl
@[simp] theorem State.setDisp_key (d : Display) : (s.setDisp d).key = s.key := rfl
@[simp] theorem State.setDisp_fault (d : Display) : (s.setDisp d).fault = s.fault := rfl
@[simp] theorem State.setDisp_cfg (d : Display) : (s.setDisp d).cfg = s.cfg := rfl
@[simp] theorem State.setDisp_schedule (d : Display) : (s.setDisp d).schedule = s.schedule := rfl
@[simp] theorem State.setDisp_randIn (d : Display) : (s.setDisp d).randIn = s.randIn := rfl
@[simp] theorem State.setDisp_pickIn (d : Display) : (s.setDisp d).pickIn = s.pickIn := rfl
@[simp] theorem State.setDisp_draws (d : Display) : (s.setDisp d).draws = s.draws := rfl
@[simp] theorem State.setDisp_readV (d : Display) (r : Reg) : (s.setDisp d).readV r = s.readV r := rfl
@[simp] theorem State.setDisp_byteAt (d : Display) (a : Nat) : (s.setDisp d).byteAt a = s.byteAt a := rfl
@[simp] theorem State.setDisp_pressed (d : Display) (j : Fin 16) : (s.setDisp d).pressed j = s.pressed j := rfl

/-! ### `setKeys` -/

@[simp] theorem State.setKeys_v (k : BitVec 16) : (s.setKeys k).v = s.v := rfl
@[simp] theorem State.setKeys_i (k : BitVec 16) : (s.setKeys k).i = s.i := rfl
@[simp] theorem State.setKeys_pc (k : BitVec 16) : (s.setKeys k).pc = s.pc := rfl
@[simp] theorem State.setKeys_stack (k : BitVec 16) : (s.setKeys k).stack = s.stack := rfl
@[simp] theorem State.setKeys_awaitingKey (k : BitVec 16) : (s.setKeys k).awaitingKey = s.awaitingKey := rfl
@[simp] theorem State.setKeys_memory (k : BitVec 16) : (s.setKeys k).memory = s.memory := rfl
@[simp] theorem State.setKeys_disp (k : BitVec 16) : (s.setKeys k).disp = s.disp := rfl
@[simp] theorem State.setKeys_dt (k : BitVec 16) : (s.setKeys k).dt = s.dt := rfl
@[simp] theorem State.setKeys_st (k : BitVec 16) : (s.setKeys k).st = s.st := rfl
@[simp] theorem State.setKeys_key (k : BitVec 16) : (s.setKeys k).key = k := rfl
@[simp] theorem State.setKeys_fault (k : BitVec 16) : (s.setKeys k).fault = s.fault := rfl
@[simp] theorem State.setKeys_cfg (k : BitVec 16) : (s.setKeys k).cfg = s.cfg := rfl
@[simp] theorem State.setKeys_schedule (k : BitVec 16) : (s.setKeys k).schedule = s.schedule := rfl
@[simp] theorem State.setKeys_randIn (k : BitVec 16) : (s.setKeys k).randIn = s.randIn := rfl
@[simp] theorem State.setKeys_pickIn (k : BitVec 16) : (s.setKeys k).pickIn = s.pickIn := rfl
@[simp] theorem State.setKeys_draws (k : BitVec 16) : (s.setKeys k).draws = s.draws := rfl
@[simp] theorem State.setKeys_readV (k : BitVec 16) (r : Reg) : (s.setKeys k).readV r = s.readV r := rfl
@[simp] theorem State.setKeys_byteAt (k : BitVec 16) (a : Nat) : (s.setKeys k).byteAt a = s.byteAt a := rfl

/-! ### `useRand` -/

@[simp] theorem State.useRand_v : (s.useRand).v = s.v := rfl
@[simp] theorem State.useRand_i : (s.useRand).i = s.i := rfl
@[simp] theorem State.useRand_pc : (s.useRand).pc = s.pc := rfl
@[simp] theorem State.useRand_stack : (s.useRand).stack = s.stack := rfl
@[simp] theorem State.useRand_awaitingKey : (s.useRand).awaitingKey = s.awaitingKey := rfl
@[simp] theorem State.useRand_memory : (s.useRand).memory = s.memory := rfl
@[simp] theorem State.useRand_disp : (s.useRand).disp = s.disp := rfl
@[simp] theorem State.useRand_dt : (s.useRand).dt = s.dt := rfl
@[simp] theorem State.useRand_st : (s.useRand).st = s.st := rfl
@[simp] theorem State.useRand_key : (s.useRand).key = s.key := rfl
@[simp] theorem State.useRand_fault : (s.useRand).fault = s.fault := rfl
@[simp] theorem State.useRand_cfg : (s.useRand).cfg = s.cfg := rfl
@[simp] theorem State.useRand_schedule : (s.useRand).schedule = s.schedule := rfl
@[simp] theorem State.useRand_randIn : (s.useRand).randIn = s.randIn.tail := rfl
@[simp] theorem State.useRand_pickIn : (s.useRand).pickIn = s.pickIn := rfl
@[simp] theorem State.useRand_draws : (s.useRand).draws = s.draws + 1 := rfl
@[simp] theorem State.useRand_readV (r : Reg) : (s.useRand).readV r = s.readV r := rfl
@[simp] theorem State.useRand_byteAt (a : Nat) : (s.useRand).byteAt a = s.byteAt a := rfl
@[simp] theorem State.useRand_pressed (j : Fin 16) : (s.useRand).pressed j = s.pressed j := rfl

/-! ### `usePick` -/

@[simp] theorem State.usePick_v : (s.usePick).v = s.v := rfl
@[simp] theorem State.usePick_i : (s.usePick).i = s.i := rfl
@[simp] theorem State.usePick_pc : (s.usePick).pc = s.pc := rfl
@[simp] theorem State.usePick_stack : (s.usePick).stack = s.stack := rfl
@[simp] theorem State.usePick_awaitingKey : (s.usePick).awaitingKey = s.awaitingKey := rfl
@[simp] theorem State.usePick_memory : (s.usePick).memory = s.memory := rfl
@[simp] theorem State.usePick_disp : (s.usePick).disp = s.disp := rfl
@[simp] theorem State.usePick_dt : (s.usePick).dt = s.dt := rfl
@[simp] theorem State.usePick_st : (s.usePick).st = s.st := rfl
@[simp] theorem State.usePick_key : (s.usePick).key = s.key := rfl
@[simp] theorem State.usePick_fault : (s.usePick).fault = s.fault := rfl
@[simp] theorem State.usePick_cfg : (s.usePick).cfg = s.cfg := rfl
@[simp] theorem State.usePick_schedule : (s.usePick).schedule = s.schedule := rfl
@[simp] theorem State.usePick_randIn : (s.usePick).randIn = s.randIn := rfl
@[simp] theorem State.usePick_pickIn : (s.usePick).pickIn = s.pickIn.tail := rfl
@[simp] theorem State.usePick_draws : (s.usePick).draws = s.draws + 1 := rfl
@[simp] theorem State.usePick_readV (r : Reg) : (s.usePick).readV r = s.readV r := rfl
@[simp] theorem State.usePick_byteAt (a : Nat) : (s.usePick).byteAt a = s.byteAt a := rfl
@[simp] theorem State.usePick_pressed (j : Fin 16) : (s.usePick).pressed j = s.pressed j := rfl

end FieldsOfUpdates

/-! ### Registers read after they are written -/

/-- A register read after a write of a register: the written value, or what it held. -/
@[simp] theorem State.writeV_readV (s : State) (x k : Reg) (b : Byte) :
    (s.writeV x b).readV k = if k = x then b else s.readV k := by
  by_cases h : k = x
  · subst h; simp [State.writeV, State.readV]
  · have : x.val ≠ k.val := fun e => h (Fin.ext e.symm)
    simp [State.writeV, State.readV, h, Vector.getElem_set_ne, this]

/-- A register read after a block load: the loaded byte where there is one. -/
@[simp] theorem State.writeVs_readV (s : State) (bs : List Byte) (k : Reg) :
    (s.writeVs bs).readV k = bs[k.val]?.getD (s.readV k) := by
  simp [State.writeVs, State.readV]

/-- The block `V0..Vx` has `x + 1` bytes. -/
@[simp] theorem State.readVs_length (s : State) (x : Reg) : (s.readVs x).length = x.val + 1 := by
  simp [State.readVs]

/-- The bytes of the block `V0..Vx` are the registers, ascending. -/
theorem State.readVs_getElem (s : State) (x k : Reg) (h : k ≤ x) : (s.readVs x)[k.val]? = some (s.readV k) := by
  have hk : k.val < x.val + 1 := Nat.lt_succ_of_le h
  simp [State.readVs, State.readV, hk]

/-- Two states with the same fields are the same state, the registers compared one by one. -/
theorem State.v_ext {s t : State} (h : ∀ k, t.readV k = s.readV k) : t.v = s.v := by
  apply Vector.ext; intro k hk; exact h ⟨k, hk⟩

end Sys2Proof.Machine
end

