-- ==== Sys2Proof/Laws/Ops.lean ====
section
/-! SUPPORT. What each shared operation can do, said once: the provers cite these and do not unfold the operations. -/

namespace Sys2Proof.Machine

/-! ### Going on or raising a fault -/

@[simp] theorem orFault_ok {α : Type} (a : α) (k : α → Result) : orFault (.ok a) k = k a := rfl

@[simp] theorem orFault_error {α : Type} (f : Fault) (k : α → Result) : orFault (.error f) k = .fault f := rfl

/-- A next state of `orFault` comes from a value. -/
theorem orFault_next {α : Type} {r : Except Fault α} {k : α → Result} {t : State} (h : orFault r k = .next t) :
    ∃ a, r = .ok a ∧ k a = .next t := by
  cases r with
  | error f => simp at h
  | ok a => exact ⟨a, rfl, h⟩

/-- A fault of `orFault` was raised before, or comes from the continuation. -/
theorem orFault_fault {α : Type} {r : Except Fault α} {k : α → Result} {f : Fault} (h : orFault r k = .fault f) :
    r = .error f ∨ ∃ a, r = .ok a ∧ k a = .fault f := by
  cases r with
  | error g => left; simpa using h
  | ok a => exact .inr ⟨a, rfl, h⟩

/-- A refusal of `orFault` comes from the continuation. -/
theorem orFault_refused {α : Type} {r : Except Fault α} {k : α → Result} {e : Refusal} (h : orFault r k = .refused e) :
    ∃ a, r = .ok a ∧ k a = .refused e := by
  cases r with
  | error f => simp at h
  | ok a => exact ⟨a, rfl, h⟩

/-! ### The address check -/

/-- Addresses that all exist. -/
theorem State.inMemory_ok {α : Type} (s : State) {base n : Nat} (r : α) (h : n = 0 ∨ base + n ≤ s.cfg.memSize) :
    s.inMemory base n r = .ok r := by
  unfold State.inMemory; rw [if_neg]; omega

/-- Some address does not exist: the lowest of them is reported. -/
theorem State.inMemory_error {α : Type} (s : State) {base n : Nat} (r : α) (h0 : 0 < n) (h : s.cfg.memSize < base + n) :
    s.inMemory base n r = .error (.memoryAccessFault (max base s.cfg.memSize)) := by
  unfold State.inMemory; rw [if_pos]; omega

/-- The check passes exactly when every address exists, and then answers the value. -/
theorem State.inMemory_eq_ok {α : Type} {s : State} {base n : Nat} {r a : α} (h : s.inMemory base n r = .ok a) :
    a = r ∧ (n = 0 ∨ base + n ≤ s.cfg.memSize) := by
  unfold State.inMemory at h
  split at h
  · cases h
  · cases h; refine ⟨rfl, ?_⟩; omega

/-- The check fails only with the fault of the lowest missing address. -/
theorem State.inMemory_eq_error {α : Type} {s : State} {base n : Nat} {r : α} {f : Fault}
    (h : s.inMemory base n r = .error f) :
    0 < n ∧ s.cfg.memSize < base + n ∧ f = .memoryAccessFault (max base s.cfg.memSize) := by
  unfold State.inMemory at h
  split at h
  · cases h; refine ⟨?_, ?_, rfl⟩ <;> omega
  · cases h

/-- One-byte reads are the block reads of length 1. -/
theorem State.readBytes_one (s : State) (a : Nat) :
    s.readBytes a 1 = (s.memRead a).map fun b => [b] := by
  by_cases h : a + 1 ≤ s.cfg.memSize
  · simp [State.readBytes, State.memRead, State.inMemory_ok s _ (Or.inr h), Except.map]
  · simp [State.readBytes, State.memRead, State.inMemory_error s _ Nat.one_pos (Nat.lt_of_not_le h), Except.map]

/-- One-byte writes are the block writes of length 1. -/
theorem State.writeBytes_one (s : State) (a : Nat) (b : Byte) : s.writeBytes a [b] = s.memWrite a b := rfl

/-- What a block read answers: the bytes, ascending. -/
theorem State.readBytes_ok {s : State} {base n : Nat} {bs : List Byte} (h : s.readBytes base n = .ok bs) :
    bs.length = n ∧ ∀ k < n, bs[k]? = some (s.byteAt (base + k)) := by
  obtain ⟨rfl, -⟩ := State.inMemory_eq_ok h
  refine ⟨by simp, fun k hk => ?_⟩
  simp [hk]

/-- What a block write does: `memory` and nothing else. -/
theorem State.writeBytes_ok {s t : State} {base : Nat} {bs : List Byte} (h : s.writeBytes base bs = .ok t) :
    t = s.setMemory (s.memory.writeList base bs) ∧ (bs.length = 0 ∨ base + bs.length ≤ s.cfg.memSize) :=
  State.inMemory_eq_ok h

/-! ### The call stack -/

/-- A push succeeds on a stack that is not full. -/
theorem State.push_ok (s : State) (w : Word) (h : s.cfg.stackDepth ≠ some s.stack.length) :
    s.push w = .ok (s.setStack (s.stack ++ [w])) := if_neg h

/-- A push fails on a full stack. -/
theorem State.push_error (s : State) (w : Word) (h : s.cfg.stackDepth = some s.stack.length) :
    s.push w = .error (.stackOverflow w) := if_pos h

/-- A pop answers the last entry. -/
theorem State.pop_ok {s : State} {ws : List Word} {w : Word} (h : s.stack = ws ++ [w]) :
    s.pop = .ok (w, s.setStack ws) := by
  simp [State.pop, h]

/-- A pop fails on an empty stack. -/
theorem State.pop_error {s : State} (h : s.stack = []) : s.pop = .error .stackUnderflow := by
  simp [State.pop, h]

/-- What a pop that succeeds answers. -/
theorem State.pop_eq_ok {s : State} {r : Word × State} (h : s.pop = .ok r) :
    ∃ ws, s.stack = ws ++ [r.1] ∧ r.2 = s.setStack ws := by
  rcases List.eq_nil_or_concat s.stack with h0 | ⟨ws, w, hw⟩
  · rw [State.pop_error h0] at h; cases h
  · rw [List.concat_eq_append] at hw
    rw [State.pop_ok hw] at h; cases h
    exact ⟨ws, hw, rfl⟩

/-! ### Nibble operands -/

theorem lowNibble_val (v : Byte) : (lowNibble v).val = v.toNat % 16 := by
  simp [lowNibble, regOfNibble, BitVec.extractLsb'_toNat]

/-- A nibble operand is the low nibble, or the range fault of a value above 15 under the `fault` policy. -/
theorem nibbleOperand_cases (p : RangePolicy) (v : Byte) :
    (nibbleOperand p v = .ok (lowNibble v) ∧ (p = .mask4 ∨ v.toNat ≤ 15)) ∨
    (nibbleOperand p v = .error (.operandRangeFault v) ∧ p = .fault ∧ 15 < v.toNat) := by
  cases p with
  | mask4 => exact .inl ⟨rfl, .inl rfl⟩
  | fault =>
    by_cases h : 15 < v.toNat
    · exact .inr ⟨if_pos h, rfl, h⟩
    · exact .inl ⟨if_neg h, .inr (by omega)⟩

/-! ### The key flags -/

/-- A key is listed as pressed exactly when its flag is set. -/
theorem State.mem_pressedKeys (s : State) (k : Fin 16) : k ∈ s.pressedKeys ↔ s.pressed k = true := by
  simp [State.pressedKeys]

/-- A key picked from a list that is not empty is in it. -/
theorem pickFrom_mem {ps : List (Fin 16)} (h : ps ≠ []) (n : Nat) : pickFrom ps n ∈ ps := by
  have hl : n % ps.length < ps.length := Nat.mod_lt _ (List.length_pos_iff.2 h)
  simp [pickFrom, List.getD_eq_getElem?_getD, List.getElem?_eq_getElem hl]

/-- Every key of the list is picked by some number. -/
theorem pickFrom_surj {ps : List (Fin 16)} {k : Fin 16} (h : k ∈ ps) : ∃ n, pickFrom ps n = k := by
  obtain ⟨n, hn, rfl⟩ := List.getElem_of_mem h
  exact ⟨n, by simp [pickFrom, List.getD_eq_getElem?_getD, Nat.mod_eq_of_lt hn, List.getElem?_eq_getElem hn]⟩

/-! ### After a transition -/

@[simp] theorem settle_next (s t : State) : settle s (.next t) = .next t := rfl

@[simp] theorem settle_fault (s : State) (f : Fault) : settle s (.fault f) = .next (s.takeFault f) := rfl

theorem unlessLatched_none {s : State} (h : s.fault = none) (r : Result) : unlessLatched s r = r := by
  simp [unlessLatched, h]

theorem unlessLatched_some {s : State} {f : Fault} (h : s.fault = some f) (r : Result) : unlessLatched s r = .fault f := by
  simp [unlessLatched, h]

/-- Taking a fault writes nothing but the latch (halting) or `pc` (skipping). -/
theorem State.takeFault_cases (s : State) (f : Fault) :
    (s.cfg.faultPolicy = .halt ∧ s.takeFault f = s.setFault (some f)) ∨
    (s.cfg.faultPolicy = .skipWord ∧ s.takeFault f = s.advance) ∨
    (s.cfg.faultPolicy = .logAndContinue ∧ s.takeFault f = s) := by
  unfold State.takeFault
  cases h : s.cfg.faultPolicy with
  | halt => exact .inl ⟨rfl, rfl⟩
  | skipWord => exact .inr (.inl ⟨rfl, rfl⟩)
  | logAndContinue => exact .inr (.inr ⟨rfl, rfl⟩)

/-! ### Polling the keys -/

/-- What a poll does: it waits with no key pressed, and takes a pressed key otherwise. -/
theorem pollKeys_cases (x : Reg) (s : State) :
    ((∀ k, s.pressed k = false) ∧ pollKeys x s = .next (s.setAwaiting (some x))) ∨
    (∃ k, s.pressed k = true ∧
      (pollKeys x s = .next (s.takeKey x k) ∨ pollKeys x s = .next (s.usePick.takeKey x k))) := by
  rcases h : s.pressedKeys with _ | ⟨k, _ | ⟨l, ks⟩⟩
  · refine .inl ⟨fun k => ?_, by simp [pollKeys, h]⟩
    have := (s.mem_pressedKeys k).not.1 (by simp [h])
    simpa using this
  · exact .inr ⟨k, (s.mem_pressedKeys k).1 (by simp [h]), .inl (by simp [pollKeys, h])⟩
  · have hm : pickFrom (k :: l :: ks) s.pickNumber ∈ s.pressedKeys := by
      rw [h]; exact pickFrom_mem (by simp) s.pickNumber
    exact .inr ⟨_, (s.mem_pressedKeys _).1 hm, .inr (by simp [pollKeys, h])⟩

/-! ### A step -/

/-- What a step that answers a next state did. -/
theorem step_cases {s t : State} (h : step s = .next t) :
    (∃ l es, s.schedule = .load l :: es ∧ l.fits s.cfg.memSize ∧ t = (s.setSchedule es).boot l) ∨
    (s.fault = none ∧
      ((∃ es, s.schedule = .tick :: es ∧ t = (s.setSchedule es).tickTimers) ∨
       (∃ k p es, s.schedule = .keyInput k p :: es ∧ t = (s.setSchedule es).inputKey k p) ∨
       (∃ es, s.schedule = .cycle :: es ∧ coreCycle (s.setSchedule es) = .next t) ∨
       (s.schedule = [] ∧ coreCycle s = .next t))) := by
  unfold step at h
  rcases hs : s.schedule with _ | ⟨_ | _ | ⟨k, p⟩ | l, es⟩ <;> rw [hs] at h <;> simp only at h
  case nil =>
    cases hf : s.fault with
    | none => rw [unlessLatched_none hf] at h; exact .inr ⟨rfl, .inr (.inr (.inr ⟨rfl, h⟩))⟩
    | some f => rw [unlessLatched_some hf] at h; cases h
  case cons.cycle =>
    cases hf : s.fault with
    | none => rw [unlessLatched_none hf] at h; exact .inr ⟨rfl, .inr (.inr (.inl ⟨es, rfl, h⟩))⟩
    | some f => rw [unlessLatched_some hf] at h; cases h
  case cons.tick =>
    cases hf : s.fault with
    | none => rw [unlessLatched_none hf] at h; cases h; exact .inr ⟨rfl, .inl ⟨es, rfl, rfl⟩⟩
    | some f => rw [unlessLatched_some hf] at h; cases h
  case cons.keyInput =>
    cases hf : s.fault with
    | none => rw [unlessLatched_none hf] at h; cases h; exact .inr ⟨rfl, .inr (.inl ⟨k, p, es, rfl, rfl⟩)⟩
    | some f => rw [unlessLatched_some hf] at h; cases h
  case cons.load =>
    unfold loadSession at h
    split at h
    · next hl => cases h; exact .inl ⟨l, es, rfl, hl, rfl⟩
    · cases h

/-- What a cycle of the CORE that answers a next state did: polled, ran an instruction, or handed a fault to the driver. -/
theorem coreCycle_cases {s t : State} (h : coreCycle s = .next t) :
    (∃ x, s.awaitingKey = some x ∧ pollKeys x s = .next t) ∨
    (s.awaitingKey = none ∧ (transition s = .next t ∨ ∃ f, transition s = .fault f ∧ t = s.takeFault f)) := by
  unfold coreCycle at h
  cases ha : s.awaitingKey with
  | some x => rw [ha] at h; exact .inl ⟨x, rfl, h⟩
  | none =>
    rw [ha] at h
    refine .inr ⟨rfl, ?_⟩
    cases ht : transition s with
    | next u => simp only [ht, settle] at h; exact .inl h
    | fault f => simp only [ht, settle] at h; cases h; exact .inr ⟨f, rfl, rfl⟩
    | refused r => simp [ht, settle] at h

/-- A transition that answers a next state ran the instruction its word decodes to. -/
theorem transition_next {s t : State} (h : transition s = .next t) :
    ∃ w i, s.fetchWord = .ok w ∧ decode w = .instr i ∧ exec i s = .next t := by
  obtain ⟨w, hw, hk⟩ := orFault_next h
  split at hk
  · next i hi => exact ⟨w, i, hw, hi, hk⟩
  · cases hk

/-- The fetch: both bytes exist, and they are assembled big-endian. -/
theorem State.fetchWord_ok {s : State} {w : Word} (h : s.fetchWord = .ok w) :
    s.pc.toNat + 2 ≤ s.cfg.memSize ∧ w = wordOfBytes (s.byteAt s.pc.toNat) (s.byteAt (s.pc.toNat + 1)) := by
  obtain ⟨rfl, h⟩ := State.inMemory_eq_ok h
  exact ⟨by omega, rfl⟩

end Sys2Proof.Machine
end

