-- ==== Sys2Proof/Laws/PerInstr.lean ====
section
/-! SUPPORT. The family TopNibble: the family selector `n1` of every instruction's word (30_encoding.md R81, R86), one lemma
per constructor. -/

namespace Sys2Proof.Laws

/-- The family selector of an instruction (30_encoding.md R81). -/
def familyNibble : Instr → Nibble
  | .cls | .ret | .sys _ => 0x0
  | .jp _ => 0x1
  | .call _ => 0x2
  | .seImm _ _ => 0x3
  | .sneImm _ _ => 0x4
  | .seReg _ _ => 0x5
  | .ldImm _ _ => 0x6
  | .addImm _ _ => 0x7
  | .ldReg _ _ | .orReg _ _ | .andReg _ _ | .xorReg _ _ | .addReg _ _ | .subReg _ _ | .shr _ _ | .subnReg _ _ => 0x8
  | .shl _ _ => 0x8
  | .sneReg _ _ => 0x9
  | .ldI _ => 0xA
  | .jpV0 _ => 0xB
  | .rnd _ _ => 0xC
  | .drw _ _ _ => 0xD
  | .skp _ | .sknp _ => 0xE
  | .ldVxDT _ | .ldVxK _ | .ldDTVx _ | .ldSTVx _ | .addI _ | .ldF _ | .ldB _ | .ldMemVx _ | .ldVxMem _ => 0xF

/-- The top nibble of the word an instruction encodes to is its family's. -/
def TopNibble.Statement (i : Instr) : Prop := nib1 (encode i) = familyNibble i

namespace TopNibble

open Instr

theorem cls : Statement .cls := nib1_ofNibbles _ _ _ _
theorem ret : Statement .ret := nib1_ofNibbles _ _ _ _
theorem sys (nnn : Imm12) : Statement (.sys nnn) := nib1_ofNibbles _ _ _ _
theorem jp (nnn : Imm12) : Statement (.jp nnn) := nib1_ofNibbles _ _ _ _
theorem call (nnn : Imm12) : Statement (.call nnn) := nib1_ofNibbles _ _ _ _
theorem seImm (x : Reg) (nn : Byte) : Statement (.seImm x nn) := nib1_ofNibbles _ _ _ _
theorem sneImm (x : Reg) (nn : Byte) : Statement (.sneImm x nn) := nib1_ofNibbles _ _ _ _
theorem seReg (x y : Reg) : Statement (.seReg x y) := nib1_ofNibbles _ _ _ _
theorem ldImm (x : Reg) (nn : Byte) : Statement (.ldImm x nn) := nib1_ofNibbles _ _ _ _
theorem addImm (x : Reg) (nn : Byte) : Statement (.addImm x nn) := nib1_ofNibbles _ _ _ _
theorem ldReg (x y : Reg) : Statement (.ldReg x y) := nib1_ofNibbles _ _ _ _
theorem orReg (x y : Reg) : Statement (.orReg x y) := nib1_ofNibbles _ _ _ _
theorem andReg (x y : Reg) : Statement (.andReg x y) := nib1_ofNibbles _ _ _ _
theorem xorReg (x y : Reg) : Statement (.xorReg x y) := nib1_ofNibbles _ _ _ _
theorem addReg (x y : Reg) : Statement (.addReg x y) := nib1_ofNibbles _ _ _ _
theorem subReg (x y : Reg) : Statement (.subReg x y) := nib1_ofNibbles _ _ _ _
theorem shr (x y : Reg) : Statement (.shr x y) := nib1_ofNibbles _ _ _ _
theorem subnReg (x y : Reg) : Statement (.subnReg x y) := nib1_ofNibbles _ _ _ _
theorem shl (x y : Reg) : Statement (.shl x y) := nib1_ofNibbles _ _ _ _
theorem sneReg (x y : Reg) : Statement (.sneReg x y) := nib1_ofNibbles _ _ _ _
theorem ldI (nnn : Imm12) : Statement (.ldI nnn) := nib1_ofNibbles _ _ _ _
theorem jpV0 (nnn : Imm12) : Statement (.jpV0 nnn) := nib1_ofNibbles _ _ _ _
theorem rnd (x : Reg) (nn : Byte) : Statement (.rnd x nn) := nib1_ofNibbles _ _ _ _
theorem drw (x y : Reg) (n : Nibble) : Statement (.drw x y n) := nib1_ofNibbles _ _ _ _
theorem skp (x : Reg) : Statement (.skp x) := nib1_ofNibbles _ _ _ _
theorem sknp (x : Reg) : Statement (.sknp x) := nib1_ofNibbles _ _ _ _
theorem ldVxDT (x : Reg) : Statement (.ldVxDT x) := nib1_ofNibbles _ _ _ _
theorem ldVxK (x : Reg) : Statement (.ldVxK x) := nib1_ofNibbles _ _ _ _
theorem ldDTVx (x : Reg) : Statement (.ldDTVx x) := nib1_ofNibbles _ _ _ _
theorem ldSTVx (x : Reg) : Statement (.ldSTVx x) := nib1_ofNibbles _ _ _ _
theorem addI (x : Reg) : Statement (.addI x) := nib1_ofNibbles _ _ _ _
theorem ldF (x : Reg) : Statement (.ldF x) := nib1_ofNibbles _ _ _ _
theorem ldB (x : Reg) : Statement (.ldB x) := nib1_ofNibbles _ _ _ _
theorem ldMemVx (x : Reg) : Statement (.ldMemVx x) := nib1_ofNibbles _ _ _ _
theorem ldVxMem (x : Reg) : Statement (.ldVxMem x) := nib1_ofNibbles _ _ _ _

end TopNibble

end Sys2Proof.Laws
end

