-- ==== Sys2Proof/Laws/Ports.lean ====
section
/-! SUPPORT. What the ports carry, said once: the gate of a transition, and the two sequences of memory accesses. -/

namespace Sys2Proof.Machine

theorem ifCompletes_next {α : Type} {i : Instr} {s t : State} (h : exec i s = .next t) (idle a : α) :
    ifCompletes i s idle a = a := by simp [ifCompletes, h]

theorem ifCompletes_fault {α : Type} {i : Instr} {s : State} {f : Fault} (h : exec i s = .fault f) (idle a : α) :
    ifCompletes i s idle a = idle := by simp [ifCompletes, h]

/-- Reads leave the memory behind the port alone. -/
theorem readsFrom_perform (m : Memory) (base : Nat) (bs : List Byte) :
    (readsFrom base bs).foldl MemAccess.perform m = m := by
  induction bs generalizing base with
  | nil => rfl
  | cons b bs ih => exact ih (base + 1)

/-- Writes over the port are the block write: no address wraps in 17 bits. -/
theorem writesFrom_perform (m : Memory) {base : Nat} {bs : List Byte} (h : base + bs.length ≤ 2 ^ 17) :
    (writesFrom base bs).foldl MemAccess.perform m = m.writeList base bs := by
  induction bs generalizing m base with
  | nil => rfl
  | cons b bs ih =>
    simp only [List.length_cons] at h
    have hb : (BitVec.ofNat 17 base).toNat = base := by simp only [BitVec.toNat_ofNat]; omega
    simp only [writesFrom, List.foldl_cons, MemAccess.perform, hb]
    exact ih (m.write base b) (by omega)

/-- An access of `readsFrom` is a read of one of its bytes at its address. -/
theorem mem_readsFrom {base : Nat} {bs : List Byte} {q : MemAccess} (h : base + bs.length ≤ 2 ^ 17)
    (hq : q ∈ readsFrom base bs) :
    ∃ k b, bs[k]? = some b ∧ q.memAddr.toNat = base + k ∧ q.memRdata = some b ∧ q.memWe = false := by
  induction bs generalizing base with
  | nil => cases hq
  | cons b bs ih =>
    simp only [List.length_cons] at h
    rcases List.mem_cons.1 hq with rfl | hq
    · exact ⟨0, b, rfl, by simp only [MemAccess.memAddr, BitVec.toNat_ofNat]; omega, rfl, rfl⟩
    · obtain ⟨k, c, hk, ha, hr⟩ := ih (by omega) hq
      exact ⟨k + 1, c, hk, by omega, hr⟩

/-- An access of `writesFrom` is a write of one of its bytes at its address. -/
theorem mem_writesFrom {base : Nat} {bs : List Byte} {q : MemAccess} (h : base + bs.length ≤ 2 ^ 17)
    (hq : q ∈ writesFrom base bs) :
    ∃ k b, bs[k]? = some b ∧ q.memAddr.toNat = base + k ∧ q.memWdata = some b ∧ q.memWe = true := by
  induction bs generalizing base with
  | nil => cases hq
  | cons b bs ih =>
    simp only [List.length_cons] at h
    rcases List.mem_cons.1 hq with rfl | hq
    · exact ⟨0, b, rfl, by simp only [MemAccess.memAddr, BitVec.toNat_ofNat]; omega, rfl, rfl⟩
    · obtain ⟨k, c, hk, ha, hr⟩ := ih (by omega) hq
      exact ⟨k + 1, c, hk, by omega, hr⟩

end Sys2Proof.Machine
end

