-- ==== Sys2Proof/Tests/Slice0.lean ====
section
/-! SUPPORT. The model's own tests: the well-formedness smoke, one written-out word per constructor, one or two steps per
instruction with the expected values of spec/95_test_vectors.md, and for every obligation with hypotheses a concrete input
that meets them. -/

namespace Sys2Proof.Tests

open Sys2Proof Sys2Proof.Machine

/-! ### Helpers -/

/-- A view of the next state, or none. -/
def seen {α : Type} (f : State → α) : Result → Option α
  | .next t => some (f t)
  | .fault _ => none
  | .refused _ => none

/-- The fault of an outcome, or none. -/
def raised : Result → Option Fault
  | .next _ => none
  | .fault f => some f
  | .refused _ => none

/-- The state after reset with some registers and memory cells written, and I. -/
def bed (rs : List (Reg × Byte)) (i : Word := 0) (cells : Memory := []) : State :=
  rs.foldl (fun s r => s.writeV r.1 r.2) { State.reset with i := i, memory := cells }

/-- The step that runs the given word. -/
def run (s : State) (w : Nat) : Result := step (s.withFetchWord 16 w)

/-! ### Well-formedness smoke (30_encoding.md R87) -/

theorem test_wf_refuses_sys_cls : (Instr.sys 0x0E0).wf = false := by decide
theorem test_wf_refuses_sys_ret : (Instr.sys 0x0EE).wf = false := by decide
theorem test_wf_accepts_sys : (Instr.sys 0x0E1).wf = true := by decide

/-! ### Every constructor's word, written out from 30_encoding.md R86 -/

theorem test_decode_family_0 : decode 0b0000000011100000#16 = .instr .cls ∧ decode 0b0000000011101110#16 = .instr .ret ∧
    decode 0b0000000100100011#16 = .instr (.sys 0x123) := by decide
theorem test_decode_families_1_2 : decode 0b0001101010111100#16 = .instr (.jp 0xABC) ∧
    decode 0b0010101010111100#16 = .instr (.call 0xABC) := by decide
theorem test_decode_families_3_4 : decode 0b0011001100101010#16 = .instr (.seImm 3 0x2A) ∧
    decode 0b0100001100101010#16 = .instr (.sneImm 3 0x2A) := by decide
theorem test_decode_families_5_9 : decode 0b0101000100100000#16 = .instr (.seReg 1 2) ∧
    decode 0b1001000100100000#16 = .instr (.sneReg 1 2) := by decide
theorem test_decode_families_6_7 : decode 0b0110101001000010#16 = .instr (.ldImm 10 0x42) ∧
    decode 0b0111001000100000#16 = .instr (.addImm 2 0x20) := by decide
theorem test_decode_family_8_logic : decode 0b1000101010110000#16 = .instr (.ldReg 10 11) ∧
    decode 0b1000101010110001#16 = .instr (.orReg 10 11) ∧ decode 0b1000101010110010#16 = .instr (.andReg 10 11) ∧
    decode 0b1000101010110011#16 = .instr (.xorReg 10 11) := by decide
theorem test_decode_family_8_arithmetic : decode 0b1000101010110100#16 = .instr (.addReg 10 11) ∧
    decode 0b1000101010110101#16 = .instr (.subReg 10 11) ∧ decode 0b1000000100100110#16 = .instr (.shr 1 2) ∧
    decode 0b1000101010110111#16 = .instr (.subnReg 10 11) ∧ decode 0b1000000100101110#16 = .instr (.shl 1 2) := by decide
theorem test_decode_families_A_B : decode 0b1010001011110000#16 = .instr (.ldI 0x2F0) ∧
    decode 0b1011001010100110#16 = .instr (.jpV0 0x2A6) := by decide
theorem test_decode_families_C_D : decode 0b1100000100111001#16 = .instr (.rnd 1 0x39) ∧
    decode 0b1101000100100011#16 = .instr (.drw 1 2 3) := by decide
theorem test_decode_family_E : decode 0b1110010110011110#16 = .instr (.skp 5) ∧
    decode 0b1110000110100001#16 = .instr (.sknp 1) := by decide
theorem test_decode_family_F_timers : decode 0b1111010000000111#16 = .instr (.ldVxDT 4) ∧
    decode 0b1111001000001010#16 = .instr (.ldVxK 2) ∧ decode 0b1111000100010101#16 = .instr (.ldDTVx 1) ∧
    decode 0b1111000100011000#16 = .instr (.ldSTVx 1) := by decide
theorem test_decode_family_F_memory : decode 0b1111000100011110#16 = .instr (.addI 1) ∧
    decode 0b1111001100101001#16 = .instr (.ldF 3) ∧ decode 0b1111000000110011#16 = .instr (.ldB 0) ∧
    decode 0b1111000101010101#16 = .instr (.ldMemVx 1) ∧ decode 0b1111000101100101#16 = .instr (.ldVxMem 1) := by decide
theorem test_table_words : decodeTableWord 16 0x1234 = some (.jp 0x234) ∧ decodeTableWord 16 0x5121 = none := by decide
/-- 20_memory.md R65: bytes 12 34 are the word 0x1234. -/
theorem test_fetch_big_endian : decodeBytes 0x12 0x34 = .instr (.jp 0x234) := by decide

/-! ### Steps, one or two per instruction -/

theorem test_cls : seen (fun t => (Display.at t.disp 7, Display.at t.disp 2047, t.pc))
    (run { State.reset with disp := Vector.replicate 32 (BitVec.allOnes 64) } 0x00E0) = some (false, false, 0x202) := by decide
theorem test_ret : seen (fun t => (t.pc, t.stack)) (run { State.reset with pc := 0x300, stack := [0x204, 0xFFFE] } 0x00EE) =
    some (0x0000, [0x204]) := by decide
theorem test_ret_empty : raised (exec .ret State.reset) = some .stackUnderflow := by decide
theorem test_sys : seen (fun t => (t.pc, t.v)) (run State.reset 0x0123) = some (0x202, State.reset.v) := by decide
theorem test_jp : seen (fun t => t.pc) (run { State.reset with pc := 0x456 } 0x1ABC) = some 0xABC := by decide
theorem test_call : seen (fun t => (t.pc, t.stack)) (run { State.reset with stack := [0x300] } 0x2ABC) =
    some (0xABC, [0x300, 0x200]) := by decide
theorem test_call_full : raised (exec (.call 0xABC) { State.reset with cfg := { stackDepth := some 1 }, stack := [0x300] }) =
    some (.stackOverflow 0x200) := by decide
theorem test_seImm : seen (fun t => t.pc) (run (bed [(3, 0x2A)]) 0x332A) = some 0x204 := by decide
theorem test_seImm_wraps :
    seen (fun t => t.pc) (run { State.reset with pc := 0xFFFE, cfg := { memSize := 65536 } } 0x3000) = some 0x0002 := by decide
theorem test_sneImm : seen (fun t => t.pc) (run (bed [(3, 0x2A)]) 0x432A) = some 0x202 := by decide
theorem test_seReg : seen (fun t => t.pc) (run (bed [(1, 7), (2, 8)]) 0x5120) = some 0x202 := by decide
theorem test_sneReg : seen (fun t => t.pc) (run (bed [(1, 7), (2, 8)]) 0x9120) = some 0x204 := by decide
theorem test_skp : seen (fun t => t.pc) (run { bed [(5, 0x0A)] with key := 0x0400 } 0xE59E) = some 0x204 := by decide
theorem test_skp_low_nibble : seen (fun t => t.pc) (run { bed [(5, 0x1A)] with key := 0x0400 } 0xE59E) = some 0x204 := by decide
theorem test_sknp : seen (fun t => t.pc) (run { bed [(5, 0x0A)] with key := 0x0008 } 0xE5A1) = some 0x204 := by decide
theorem test_ldImm : seen (fun t => (t.readV 15, t.pc)) (run State.reset 0x6FFF) = some (0xFF, 0x202) := by decide
theorem test_addImm : seen (fun t => (t.readV 2, t.readV VF)) (run (bed [(2, 0xFF)]) 0x7201) = some (0x00, 0x00) := by decide
theorem test_rnd : seen (fun t => (t.readV 1, t.readV VF)) (run { bed [(1, 0xFF)] with randIn := [0x89] } 0xC139) =
    some (0x09, 0x00) := by decide
theorem test_ldReg : seen (fun t => t.readV 0) (run (bed [(1, 0x5A)]) 0x8010) = some 0x5A := by decide
theorem test_orReg : seen (fun t => (t.readV 0, t.readV VF)) (run (bed [(0, 0xF0), (1, 0x0F), (15, 0x55)]) 0x8011) =
    some (0xFF, 0x55) := by decide
theorem test_andReg : seen (fun t => (t.readV 0, t.readV VF)) (run (bed [(0, 0xF0), (1, 0x3C), (15, 0x55)]) 0x8012) =
    some (0x30, 0x55) := by decide
theorem test_xorReg : seen (fun t => (t.readV 0, t.readV VF)) (run (bed [(0, 0xF0), (1, 0x3C), (15, 0x55)]) 0x8013) =
    some (0xCC, 0x55) := by decide
theorem test_addReg : seen (fun t => (t.readV 0, t.readV VF)) (run (bed [(0, 0xFF), (1, 0x01)]) 0x8014) =
    some (0x00, 0x01) := by decide
theorem test_addReg_vf : seen (fun t => t.readV VF) (run (bed [(15, 0x02), (1, 0x03)]) 0x8F14) = some 0x00 := by decide
theorem test_subReg : seen (fun t => (t.readV 0, t.readV VF)) (run (bed [(0, 0x00), (1, 0x01)]) 0x8015) =
    some (0xFF, 0x00) := by decide
theorem test_subReg_equal : seen (fun t => (t.readV 0, t.readV VF)) (run (bed [(0, 0x01), (1, 0x01)]) 0x8015) =
    some (0x00, 0x01) := by decide
theorem test_shr : seen (fun t => (t.readV 0, t.readV VF)) (run (bed [(0, 0x05), (1, 0xFF)]) 0x8016) =
    some (0x02, 0x01) := by decide
theorem test_shr_vf : seen (fun t => t.readV VF) (run (bed [(15, 0x02)]) 0x8F06) = some 0x01 := by decide
theorem test_subnReg : seen (fun t => (t.readV 0, t.readV VF)) (run (bed [(0, 0x05), (1, 0x03)]) 0x8017) =
    some (0xFE, 0x00) := by decide
theorem test_shl : seen (fun t => (t.readV 0, t.readV VF)) (run (bed [(0, 0xC1)]) 0x800E) = some (0x82, 0x80) := by decide
theorem test_shl_vf : seen (fun t => t.readV VF) (run (bed [(15, 0x81)]) 0x8F0E) = some 0x02 := by decide
theorem test_ldI : seen (fun t => t.i) (run State.reset 0xAFFF) = some 0x0FFF := by decide
theorem test_jpV0 : seen (fun t => t.pc) (run (bed [(0, 0xFF)]) 0xBFFF) = some 0x10FE := by decide
theorem test_addI : seen (fun t => (t.i, t.readV VF)) (run (bed [(1, 0x01)] 0xFFFF) 0xF11E) = some (0x0000, 0x00) := by decide
theorem test_ldF : seen (fun t => t.i) (run (bed [(3, 0x0F)]) 0xF329) = some 0x004B := by decide
theorem test_ldF_low_nibble : seen (fun t => t.i) (run (bed [(3, 0x1A)]) 0xF329) = some 0x0032 := by decide
theorem test_ldB : seen (fun t => (t.byteAt 0x300, t.byteAt 0x301, t.byteAt 0x302)) (run (bed [(0, 234)] 0x300) 0xF033) =
    some (2, 3, 4) := by decide
theorem test_ldB_edge : raised (exec (.ldB 0) (bed [(0, 7)] 0xFFE)) = some (.memoryAccessFault 0x1000) := by decide
theorem test_ldMemVx : seen (fun t => (t.byteAt 0x400, t.byteAt 0x401, t.byteAt 0x402, t.i))
    (run (bed [(0, 0x11), (1, 0x22), (2, 0x33)] 0x400) 0xF155) = some (0x11, 0x22, 0x00, 0x400) := by decide
theorem test_ldMemVx_edge : raised (exec (.ldMemVx 15) (bed [] 0xFF1)) = some (.memoryAccessFault 0x1000) := by decide
theorem test_ldVxMem : seen (fun t => (t.readV 0, t.readV 1, t.readV 2, t.readV 3, t.i))
    (run (bed [(3, 0x99)] 0x300 [(0x300, 2), (0x301, 3), (0x302, 4)]) 0xF265) = some (2, 3, 4, 0x99, 0x300) := by decide
theorem test_drw : seen (fun t => (Display.at t.disp 2046, Display.at t.disp 1989, Display.at t.disp 2047, t.readV VF))
    (run (bed [(0, 62), (1, 31), (15, 9)] 0x300 [(0x300, 0x81)]) 0xD011) = some (true, true, false, 0x00) := by decide
theorem test_drw_collision : seen (fun t => (Display.at t.disp 0, t.readV VF))
    (run { bed [(0, 64), (1, 32)] 0x300 [(0x300, 0x80)] with disp := blankDisplay.set 0 1 } 0xD011) =
    some (false, 0x01) := by decide
theorem test_ldVxDT : seen (fun t => t.readV 4) (run { State.reset with dt := 0x3C } 0xF407) = some 0x3C := by decide
theorem test_ldDTVx : seen (fun t => (t.dt, t.st)) (run (bed [(1, 0x3C)]) 0xF115) = some (0x3C, 0) := by decide
theorem test_ldSTVx : seen (fun t => (t.dt, t.st)) (run (bed [(1, 0x05)]) 0xF118) = some (0, 0x05) := by decide
theorem test_ldVxK_waits : seen (fun t => (t.pc, t.awaitingKey, t.readV 2)) (run State.reset 0xF20A) =
    some (0x200, some 2, 0) := by decide
theorem test_ldVxK : seen (fun t => (t.pc, t.awaitingKey, t.readV 2)) (run { State.reset with key := 0x0080 } 0xF20A) =
    some (0x202, none, 7) := by decide
theorem test_tick_stops_at_zero : seen (fun t => (t.dt, t.st)) (step { State.reset with dt := 2, schedule := [.tick] }) =
    some (1, 0) := by decide
theorem test_skip_policy : seen (fun t => (t.pc, t.fault))
    (run { State.reset with cfg := { faultPolicy := .skipWord } } 0x5011) = some (0x202, none) := by decide
theorem test_assembler_text : instrText (.ldVxMem 10) = "LD VA, [I]" ∧ instrText (.drw 1 2 3) = "DRW V1, V2, 3" := by decide

/-! ### Witnesses: inputs that meet the hypotheses of the obligations -/

theorem decodeOfEncodeIsTheInstruction_witness :
    (Instr.sys 0x0E1).wf = true ∧ (Instr.sys 0x0DF).wf = true ∧ (Instr.drw 15 0 15).wf = true := by decide
theorem encodeOfDecodeIsTheWord_witness : decode 0x8126 = .instr (.shr 1 2) := by decide
theorem wordsMatchTheOpcodeMap_witness : decode 0xF0FF ≠ .instr .cls ∧ decode 0xF165 = .instr (.ldVxMem 1) ∧
    (opcodeRow (.sys 0)).1 &&& ((opcodeRow (.sys 0)).2 &&& (opcodeRow .cls).2) =
      (opcodeRow .cls).1 &&& ((opcodeRow (.sys 0)).2 &&& (opcodeRow .cls).2) := by decide
theorem unsupportedWordsAreTheFiveSets_witness : decode 0x5FFF = .unsupportedOpcode 0x5FFF ∧
    decode 0x8008 = .unsupportedOpcode 0x8008 ∧ decode 0x800D = .unsupportedOpcode 0x800D ∧
    decode 0x8FFF = .unsupportedOpcode 0x8FFF ∧ decode 0x9001 = .unsupportedOpcode 0x9001 ∧
    decode 0xE09F = .unsupportedOpcode 0xE09F ∧ decode 0xE0A0 = .unsupportedOpcode 0xE0A0 ∧
    decode 0xF000 = .unsupportedOpcode 0xF000 ∧ decode 0xFFFF = .unsupportedOpcode 0xFFFF := by decide

/-- A machine at the last fetchable word, 00EE, with an empty stack: the instruction faults. -/
def retAtTheEnd : State := { State.reset with pc := 0xFFE, memory := [(0xFFF, 0xEE)] }

theorem stepRunsTheDecodedInstruction_witness : retAtTheEnd.fault = none ∧ retAtTheEnd.awaitingKey = none ∧
    retAtTheEnd.pc.toNat + 1 < retAtTheEnd.cfg.memSize ∧
    decodeBytes (retAtTheEnd.byteAt retAtTheEnd.pc.toNat) (retAtTheEnd.byteAt (retAtTheEnd.pc.toNat + 1)) = .instr .ret ∧
    retAtTheEnd.schedule = [] ∧ raised (exec .ret retAtTheEnd) = some .stackUnderflow := by decide
/-- The same with the CORE's cycle named first, and a stack that lets it complete. -/
theorem stepRunsTheDecodedInstruction_cycle_witness :
    let s := { retAtTheEnd with schedule := [.cycle, .tick], stack := [0x204] }
    s.fault = none ∧ s.awaitingKey = none ∧ s.pc.toNat + 1 < s.cfg.memSize ∧
    decodeBytes (s.byteAt s.pc.toNat) (s.byteAt (s.pc.toNat + 1)) = .instr .ret ∧ s.schedule = .cycle :: [.tick] ∧
    seen (fun t => t.pc) (exec .ret (s.setSchedule [.tick])) = some 0x206 := by decide
theorem fetchAndDecodeFaultsComeFirst_witness :
    let s := { State.reset with pc := 0xFFF }
    let u := { State.reset with pc := 0xFFE, memory := [(0xFFE, 0x50), (0xFFF, 0x11)] }
    (s.fault = none ∧ s.awaitingKey = none ∧ s.schedule = [] ∧ s.cfg.memSize ≤ s.pc.toNat + 1) ∧
    (u.fault = none ∧ u.awaitingKey = none ∧ u.schedule = [] ∧ u.pc.toNat + 1 < u.cfg.memSize ∧
      decodeBytes (u.byteAt u.pc.toNat) (u.byteAt (u.pc.toNat + 1)) = .unsupportedOpcode 0x5011) := by decide
theorem faultPolicyDecidesWhatFollowsAFault_witness : ∀ p : FaultPolicy, p = .halt ∨ p = .skipWord ∨ p = .logAndContinue →
    let s := { retAtTheEnd with cfg := { faultPolicy := p } }
    s.fault = none ∧ s.awaitingKey = none ∧ s.schedule = [] ∧ raised (transition s) = some .stackUnderflow := by
  rintro p (rfl | rfl | rfl) <;> decide
/-- An image cell at the last address still fits. -/
theorem latchedFaultStopsAllButALoad_witness :
    let s := { State.reset with fault := some .stackUnderflow, schedule := [.load { image := [(4095, 1)], rom := [0x12, 0x00] }] }
    s.fault = some .stackUnderflow ∧ Launch.fits { image := [(4095, 1)], rom := [0x12, 0x00] } s.cfg.memSize := by decide
theorem latchedFaultStopsAllButALoad_stop_witness :
    let s := { State.reset with fault := some .stackUnderflow, schedule := [.tick] }
    s.fault = some .stackUnderflow ∧ s.schedule.head? = some .tick := by decide
theorem transitionsFaultExactlyWhereStated_witness :
    raised (exec (.ldB 0) (bed [] 0xFFE)) = some (.memoryAccessFault 0x1000) ∧ raised (exec (.ldB 0) (bed [] 0xFFD)) = none ∧
    raised (exec (.drw 0 0 1) (bed [] 0x1234)) = some (.memoryAccessFault 0x1234) ∧
    raised (exec (.ldF 0) { bed [(0, 16)] with cfg := { digitRange := .fault } }) = some (.operandRangeFault 16) ∧
    raised (exec (.ldF 0) { bed [(0, 15)] with cfg := { digitRange := .fault } }) = none ∧
    raised (exec (.skp 0) { bed [(0, 16)] with cfg := { keyRange := .fault } }) = some (.operandRangeFault 16) ∧
    raised (exec (.call 0) { State.reset with cfg := { stackDepth := some 0 } }) = some (.stackOverflow 0x200) := by decide

/-- A machine that waits at its FX0A. -/
def waiting : State := { State.reset with memory := [(0x200, 0xF2), (0x201, 0x0A)], awaitingKey := some 2 }

/-- The waiting machine meets the invariant. -/
theorem waiting_inv : waiting.Inv where
  cfg_wf := by decide
  memory_wf := by decide
  memory_inside := by decide
  stack_bounded := by intro n h; cases h
  latched_only_when_halting := by intro h; exact absurd rfl h
  latched_awaits_nothing := by intro h; exact absurd rfl h
  awaits_at_key_wait := by intro x h; cases h; exact ⟨0xF20A, rfl, by decide⟩

theorem stepKeepsTheInvariant_witness : waiting.Inv ∧ seen (fun t => t.pc) (step waiting) = some 0x200 :=
  ⟨waiting_inv, by decide⟩
theorem stepsKeepParametersAndKeys_witness :
    seen (fun t => t.key) (step { State.reset with schedule := [.tick] }) = some 0 := by decide
/-- For RegistersChangeOnlyAsDestinations, IndexChangesOnlyInThreeInstructions, MemoryChangesOnlyInTheStoredBytes and
UnitsChangeOnlyByTheirInstructions: instructions that complete, at the edges of memory. -/
theorem frames_witness : Memory.wf (bed [(0, 7)] 0xFFD).memory ∧
    seen (fun t => t.pc) (exec (.ldB 0) (bed [(0, 7)] 0xFFD)) = some 0x202 ∧
    seen (fun t => t.pc) (exec (.addReg 0 1) (bed [(0, 7)])) = some 0x202 ∧
    seen (fun t => t.pc) (exec (.ldVxMem 15) (bed [] 0xFF0)) = some 0x202 := by decide
theorem pcAdvancesByTwoOutsideControlTransfer_witness : isControlTransfer .cls = false ∧
    seen (fun t => t.pc) (exec .cls { State.reset with pc := 0xFFFE }) = some 0 ∧
    seen (fun t => t.pc) (exec (.ldVxK 0) State.reset) = some 0x200 ∧
    seen (fun t => t.pc) (exec (.ldVxK 0) { State.reset with key := 0x8000 }) = some 0x202 ∧
    State.reset.pressedKeys = [] ∧ State.pressed { State.reset with key := 0x8000 } 15 = true := by decide
theorem onlyKeyInstructionsSeeTheKeys_witness : readsKeys (.drw 0 0 0) = false := by decide
theorem soundTimerIsNeverRead_witness : ∀ x, Instr.cls ≠ .ldSTVx x := by intro x h; cases h
theorem canonicalMemoriesReadingAlikeAreEqual_witness : Memory.wf [(0, 0), (0x300, 1)] := by decide
theorem retPopsAndGoesPastTheCall_witness :
    State.stack { State.reset with stack := [0x204, 0xFFFE] } = [0x204] ++ [0xFFFE] ∧ State.reset.stack = [] := by decide
theorem sysOnlyAdvancesPc_witness : (0x0DF : Imm12) ≠ 0x0E0 ∧ (0x0DF : Imm12) ≠ 0x0EE := by decide
theorem jpLoadsPc_witness : State.reset.pc.toNat = (0x200 : Imm12).toNat := by decide
theorem callPushesItsOwnAddress_witness :
    (let s := { State.reset with cfg := { stackDepth := some 2 }, stack := [0x300] }
     s.cfg.stackDepth ≠ some s.stack.length) ∧
    (let s := { State.reset with cfg := { stackDepth := some 1 }, stack := [0x300] }
     s.cfg.stackDepth = some s.stack.length) := by decide
theorem callThenRetResumesAfterTheCall_witness :
    seen (fun t => t.stack) (exec (.call 0xABC) State.reset) = some [0x200] := by decide
/-- The subroutine at the last two bytes of memory. -/
theorem callThenRetResumesAfterTheCall_steps_witness :
    let s := { State.reset with memory := [(0x200, 0x2F), (0x201, 0xFE), (0xFFF, 0xEE)] }
    s.fault = none ∧ s.awaitingKey = none ∧ s.schedule = [] ∧ s.cfg.stackDepth ≠ some s.stack.length ∧
    s.pc.toNat + 1 < s.cfg.memSize ∧
    wordOfBytes (s.byteAt s.pc.toNat) (s.byteAt (s.pc.toNat + 1)) = encode (.call 0xFFE) ∧
    (0xFFE : Imm12).toNat + 1 < s.cfg.memSize ∧ s.byteAt 0xFFE = 0x00 ∧ s.byteAt 0xFFF = 0xEE := by decide
theorem skipsOnAKeyTestTheLowNibble_witness :
    (let s := bed [(5, 0xFF)]
     s.cfg.keyRange = .mask4 ∧ (15 : Fin 16).val = (s.readV 5).toNat % 16) ∧
    (let s := { bed [(5, 15)] with cfg := { keyRange := .fault } }
     (s.readV 5).toNat ≤ 15 ∧ (15 : Fin 16).val = (s.readV 5).toNat % 16) ∧
    (let s := { bed [(5, 16)] with cfg := { keyRange := .fault } }
     s.cfg.keyRange = .fault ∧ 15 < (s.readV 5).toNat) := by decide
theorem randomByteIsMasked_witness : State.randIn { State.reset with randIn := [0x89] } = 0x89 :: [] := by decide
/-- For AddWritesTheSumThenTheCarry, SubtractionsWriteTheDifferenceThenNotBorrow and ShiftsWriteTheBitOutThenTheResult: a
destination next to VF, and VF itself. -/
theorem aluDestinations_witness : (14 : Reg) ≠ VF ∧ (0 : Reg) ≠ VF ∧ (15 : Reg) = VF := by decide
theorem loadGlyphAddressesTheFont_witness :
    (bed [(3, 0xFF)]).cfg.digitRange = .mask4 ∧
    (let s := { bed [(3, 15)] with cfg := { digitRange := .fault } }; (s.readV 3).toNat ≤ 15) ∧
    (let s := { bed [(3, 16)] with cfg := { digitRange := .fault } }
     s.cfg.digitRange = .fault ∧ 15 < (s.readV 3).toNat) := by decide
theorem loadIndexWritesI_witness : (bed [(1, 1)] 0xFFF).i.toNat ≤ 0xFFF ∧
    seen (fun t => t.i.toNat) (exec (.addI 1) (bed [(1, 1)] 0xFFF)) = some 0x1000 := by decide
theorem bcdStoresThreeDigits_witness : Memory.wf (bed [(0, 255)] 0xFFD).memory ∧
    (bed [(0, 255)] 0xFFD).i.toNat + 2 < (bed [(0, 255)] 0xFFD).cfg.memSize ∧
    (bed [] 0xFFE).cfg.memSize ≤ (bed [] 0xFFE).i.toNat + 2 := by decide
/-- For BlockStoreWritesTheRegisters and BlockLoadReadsTheRegisters: the last block that fits and the first that does not. -/
theorem blockTransfers_witness : Memory.wf (bed [] 0xFF0).memory ∧
    (bed [] 0xFF0).i.toNat + (15 : Reg).val < (bed [] 0xFF0).cfg.memSize ∧
    (bed [] 0xFF1).cfg.memSize ≤ (bed [] 0xFF1).i.toNat + (15 : Reg).val := by decide
theorem blockStoreThenLoadRestores_witness : Memory.wf (bed [(15, 1)] 0xFF0).memory ∧
    seen (fun t => (t.i, t.cfg)) (exec (.ldMemVx 15) (bed [(15, 1)] 0xFF0)) = some (0xFF0, {}) := by decide
/-- 95_test_vectors.md P5, the store that the next fetch sees. -/
theorem storedWordIsFetchedNext_witness :
    let s := { bed [(0, 0x61), (1, 0x77)] 0x206 with pc := 0x204 }
    Memory.wf s.memory ∧ seen (fun t => t.pc.toNat) (exec (.ldMemVx 1) s) = some (s.i.toNat + (0 : Reg).val) ∧
    (1 : Reg).val = (0 : Reg).val + 1 ∧ (1 : Reg) ≤ 1 := by decide
theorem drwXorsExactlyTheSprite_witness :
    (0 : Nibble).toNat = 0 ∧ (bed [] 0xFF1).i.toNat + (15 : Nibble).toNat ≤ (bed [] 0xFF1).cfg.memSize ∧
    0 < (1 : Nibble).toNat ∧ (bed [] 0x1000).cfg.memSize < (bed [] 0x1000).i.toNat + (1 : Nibble).toNat := by decide
/-- A covered cell that is 0, and (with the display lit) one that is 1. -/
theorem drwXorsExactlyTheSprite_cells_witness :
    SpriteCovers (bed [(0, 62), (1, 31)] 0x300 [(0x300, 0x81)]) 0 1 1 ⟨5, 31⟩ ∧
    SpriteCovers { bed [] 0x300 [(0x300, 0x80)] with disp := blankDisplay.set 0 1 } 0 1 1 ⟨0, 0⟩ ∧
    Display.cell (blankDisplay.set 0 1) ⟨0, 0⟩ = true ∧ Display.cell blankDisplay ⟨5, 31⟩ = false :=
  ⟨⟨0, by decide, 7, by decide⟩, ⟨0, by decide, 0, by decide⟩, by decide, by decide⟩
theorem drwTwiceRestoresTheDisplay_witness :
    seen (fun t => (t.readV 0, t.readV 1, t.readV VF, seen (fun u => u.readV VF) (exec (.drw 0 1 1) t)))
      (exec (.drw 0 1 1) (bed [(0, 62), (1, 31)] 0x300 [(0x300, 0x81)])) = some (62, 31, 0, some 1) := by decide
theorem delayTimerIsReadAndNeverRises_witness :
    seen (fun t => t.dt) (run (bed [(1, 1)]) 0xF115) = some 1 ∧ State.reset.dt = 0 := by decide
theorem keyWaitTakesAPressedKey_witness : (∀ k, State.reset.pressed k = false) ∧
    State.pressed { State.reset with key := 0x0208 } 3 = true ∧
    State.pressed { State.reset with key := 0x0208 } 9 = true := by decide
theorem awaitingCycleEqualsFetchingAgain_witness : waiting.Inv ∧ waiting.awaitingKey = some 2 ∧ waiting.schedule = [] :=
  ⟨waiting_inv, rfl, rfl⟩
theorem waitsForEverWithoutAKey_witness : waiting.awaitingKey = some 2 ∧ waiting.fault = none ∧ waiting.schedule = [] ∧
    ∀ k, waiting.pressed k = false := by decide
theorem ticksAndKeysChangeOnlyTheirUnits_witness :
    (let s := { State.reset with dt := 255, schedule := [.tick] }
     s.fault = none ∧ s.schedule = .tick :: []) ∧
    (let s := { State.reset with key := 0x8000, schedule := [.keyInput 15 false, .keyInput 0 true] }
     s.fault = none ∧ s.schedule = .keyInput 15 false :: [.keyInput 0 true]) := by decide
/-- An FX55 that ends at the last byte, an FX33 that ends one past it, a draw, and a machine that awaits VF. -/
theorem portsCarryWhatATransitionDoes_witness :
    seen (fun t => t.pc) (exec (.ldMemVx 15) (bed [] 0xFF0)) = some 0x202 ∧
    raised (exec (.ldB 0) (bed [] 0xFFE)) = some (.memoryAccessFault 0x1000) ∧
    dispDraw (.drw 0 1 1) (bed [(0, 62), (1, 31)] 0xFFF) = some ⟨62, 31, 1, 0xFFF⟩ ∧
    State.awaitingKey { State.reset with awaitingKey := some 15 } = some 15 := by decide
/-- 10_state.md R40: FX33 of 234 at 0x300 writes 2, 3, 4. -/
theorem test_memory_port : memPort (.ldB 0) (bed [(0, 234)] 0x300) =
    [.write 0x300 2, .write 0x301 3, .write 0x302 4] := by decide
/-- 10_state.md R40: the valid bit and index 2. -/
theorem test_awaiting_key_out : waiting.awaitingKeyOut = 0b10010 := by decide
/-- A cell at the last address fits, one past it does not. -/
theorem loadStartsAFreshSession_witness :
    Launch.fits { image := [(4095, 1)], rom := [0x12, 0x00] } State.reset.cfg.memSize ∧
    ¬ Launch.fits { image := [(4096, 1)], rom := [0x12, 0x00] } State.reset.cfg.memSize := by decide
theorem selfJumpIsAFixedPoint_witness : State.Finished { State.reset with memory := [(0x200, 0x12)] } :=
  ⟨rfl, by decide, rfl, rfl, rfl⟩

end Sys2Proof.Tests
end

section
/-! The immediate assembly of 30_encoding.md R82: how the fold grows by one nibble, and the bound that makes the immediates hold
it whole. -/

namespace Sys2Proof

theorem assembleNibbles_nil : assembleNibbles [] = 0 := rfl

theorem assembleNibbles_concat (ns : List Nibble) (a : Nibble) :
    assembleNibbles (ns ++ [a]) = (assembleNibbles ns <<< 4) ||| a.toNat := by
  simp only [assembleNibbles, List.foldl_concat]

/-- `k` nibbles assemble to a number of `4 * k` bits, so no immediate loses a bit to its width. -/
theorem assembleNibbles_lt (ns : List Nibble) : assembleNibbles ns < 2 ^ (4 * ns.length) := by
  induction ns using List.reverseRecOn with
  | nil => simp [assembleNibbles_nil]
  | append_singleton ns a ih =>
    have ha := a.isLt
    rw [assembleNibbles_concat, shiftLeft_or_nibble, List.length_append, List.length_singleton, Nat.mul_add, Nat.pow_add]
    omega

theorem immNN_toNat_eq_assembleNibbles (w : Word) : (immNN w).toNat = assembleNibbles [nib3 w, nib4 w] :=
  (BitVec.toNat_ofNat _ _).trans (Nat.mod_eq_of_lt (assembleNibbles_lt [nib3 w, nib4 w]))

theorem immNNN_toNat_eq_assembleNibbles (w : Word) : (immNNN w).toNat = assembleNibbles [nib2 w, nib3 w, nib4 w] :=
  (BitVec.toNat_ofNat _ _).trans (Nat.mod_eq_of_lt (assembleNibbles_lt [nib2 w, nib3 w, nib4 w]))

/-- Settles O5: the fold's two equations, and for each immediate that the assembly fits its width and is the bit field. -/
theorem immediatesAreTheBitFields : Obligations.ImmediatesAreTheBitFields :=
  ⟨assembleNibbles_nil, assembleNibbles_concat, fun w =>
    ⟨immNN_toNat_eq_assembleNibbles w, immNN_toNat w, immNNN_toNat_eq_assembleNibbles w, immNNN_toNat w, nib4_toNat w⟩⟩

end Sys2Proof
end

section
/-! Control transfer (40_control_transfer.md): the words of the `NNN` forms, the frame and the target of a jump, and where `pc`
goes on by 2. -/

namespace Sys2Proof

/-! ### The words of SYS, JP and JP V0 -/

@[simp] theorem nib1_encNNN (f : Nibble) (nnn : Imm12) : nib1 (encNNN f nnn) = f := nib1_ofNibbles _ _ _ _

/-- Family 0 is SYS but at the two exact words, told apart by their `NNN` (30_encoding.md R87). -/
theorem decodeZero_eq_sys {w : Word} (hcls : immNNN w ≠ 0x0E0) (hret : immNNN w ≠ 0x0EE) :
    decodeZero w = .instr (.sys (immNNN w)) := by
  unfold decodeZero
  split
  · next h2 h3 h4 => exact absurd (by rw [immNNN, h2, h3, h4]; rfl) hcls
  · next h2 h3 h4 => exact absurd (by rw [immNNN, h2, h3, h4]; rfl) hret
  · rfl

theorem decode_encNNN_sys {nnn : Imm12} (hcls : nnn ≠ 0x0E0) (hret : nnn ≠ 0x0EE) :
    decode (encNNN 0x0 nnn) = .instr (.sys nnn) := by
  have hzero : decode (encNNN 0x0 nnn) = decodeZero (encNNN 0x0 nnn) := by simp [decode]
  have himm := immNNN_encNNN 0x0 nnn
  rw [hzero, decodeZero_eq_sys (himm.symm ▸ hcls) (himm.symm ▸ hret), himm]

theorem decode_encNNN_jp (nnn : Imm12) : decode (encNNN 0x1 nnn) = .instr (.jp nnn) := by simp [decode]

theorem decode_encNNN_jpV0 (nnn : Imm12) : decode (encNNN 0xB nnn) = .instr (.jpV0 nnn) := by simp [decode]

namespace Machine

/-! ### Jump targets -/

theorem zextNNN_toNat (nnn : Imm12) : (zextNNN nnn).toNat = nnn.toNat :=
  BitVec.toNat_setWidth_of_le (by decide)

theorem zextByte_toNat (b : Byte) : (zextByte b).toNat = b.toNat :=
  BitVec.toNat_setWidth_of_le (by decide)

/-- A 12-bit and an 8-bit number have a sum of 16 bits: at most 0x10FE (40_control_transfer.md R114). -/
theorem imm12_add_byte_lt (nnn : Imm12) (b : Byte) : nnn.toNat + b.toNat < 65536 := by
  have hn := nnn.isLt
  have hb := b.isLt
  omega

theorem State.offsetTarget_toNat (s : State) (nnn : Imm12) :
    (s.offsetTarget nnn).toNat = (nnn.toNat + (s.readV 0).toNat) % 65536 := by
  rw [State.offsetTarget, BitVec.toNat_add, zextNNN_toNat, zextByte_toNat]

/-! ### Writes of `pc` -/

/-- Writing `pc` leaves everything else as it is. -/
theorem onlyRegs_setPc (s : State) (w : Word) : OnlyRegs [] s (s.setPc w) :=
  ⟨fun _ _ => rfl, rfl, fun _ => rfl, ⟨rfl, rfl, rfl, rfl⟩, ⟨rfl, rfl, rfl, rfl, rfl⟩, rfl, rfl, rfl⟩

/-- A machine that advances from the `pc` of `s` has gone on by 2. -/
theorem pcPlus_two_advance {s u : State} (hu : u.pc = s.pc) : PcPlus 2 s u.advance := by
  rw [PcPlus, State.advance_pc, hu]; exact BitVec.toNat_add _ _

theorem pcPlus_two_of_next_advance {s t u : State} (h : (.next u.advance : Result) = .next t) (hu : u.pc = s.pc) :
    PcPlus 2 s t := by
  cases h; exact pcPlus_two_advance hu

theorem State.writeBytes_pc {s t : State} {base : Nat} {bs : List Byte} (h : s.writeBytes base bs = .ok t) :
    t.pc = s.pc := by
  obtain ⟨rfl, -⟩ := State.writeBytes_ok h; rfl

/-! ### The control transfers, and the rest -/

theorem isUnconditional_iff (i : Instr) : isUnconditional i = true ↔
    i = .ret ∨ (∃ a, i = .jp a) ∨ (∃ a, i = .call a) ∨ (∃ a, i = .jpV0 a) := by
  cases i <;> simp [isUnconditional]

theorem isSkip_iff (i : Instr) : isSkip i = true ↔
    (∃ x a, i = .seImm x a) ∨ (∃ x a, i = .sneImm x a) ∨ (∃ x y, i = .seReg x y) ∨ (∃ x y, i = .sneReg x y) ∨
      (∃ x, i = .skp x) ∨ (∃ x, i = .sknp x) := by
  cases i <;> simp [isSkip]

/-- What completes outside the control transfers and FX0A has advanced: at once, past an operand or address check, or past a
block write, which keeps `pc`. -/
theorem exec_pcPlus_two {i : Instr} {s t : State} (h : exec i s = .next t) (hc : isControlTransfer i = false)
    (hk : ∀ x, i ≠ .ldVxK x) : PcPlus 2 s t := by
  cases i with
  | ret | jp | call | jpV0 | seImm | sneImm | seReg | sneReg | skp | sknp => cases hc
  | ldVxK x => exact absurd rfl (hk x)
  | cls | sys | ldImm | addImm | ldReg | orReg | andReg | xorReg | addReg | subReg | shr | subnReg | shl | ldI | rnd | ldVxDT
  | ldDTVx | ldSTVx | addI => exact pcPlus_two_of_next_advance h rfl
  | drw | ldF | ldVxMem =>
    obtain ⟨_, -, h⟩ := orFault_next h
    exact pcPlus_two_of_next_advance h rfl
  | ldB | ldMemVx =>
    obtain ⟨_, hw, h⟩ := orFault_next h
    exact pcPlus_two_of_next_advance h (State.writeBytes_pc hw)

/-- FX0A waits on its own address (45_display_timer_key.md R214). -/
theorem pollKeys_pc_of_noKey {x : Reg} {s t : State} (h : pollKeys x s = .next t) (hno : ∀ k, s.pressed k = false) :
    t.pc = s.pc := by
  rcases pollKeys_cases x s with ⟨-, hp⟩ | ⟨k, hk, -⟩
  · cases hp.symm.trans h; rfl
  · rw [hno k] at hk; cases hk

/-- FX0A goes on once it has taken a key, supplied pick or not. -/
theorem pollKeys_pcPlus_two_of_key {x : Reg} {s t : State} (h : pollKeys x s = .next t)
    (hkey : ∃ k, s.pressed k = true) : PcPlus 2 s t := by
  rcases pollKeys_cases x s with ⟨hno, -⟩ | ⟨_, -, hp | hp⟩
  · obtain ⟨k, hk⟩ := hkey
    rw [hno k] at hk; cases hk
  · exact pcPlus_two_of_next_advance (hp.symm.trans h) rfl
  · exact pcPlus_two_of_next_advance (hp.symm.trans h) rfl

/-! ### The statements -/

/-- Settles O19: the two classes listed, the rest by what each constructor does, FX0A by its poll. -/
theorem pcAdvancesByTwoOutsideControlTransfer : Obligations.PcAdvancesByTwoOutsideControlTransfer := by
  refine ⟨fun i => ?_, fun _ _ _ => exec_pcPlus_two, fun _ _ _ h => ⟨pollKeys_pc_of_noKey h, pollKeys_pcPlus_two_of_key h⟩⟩
  rw [isControlTransfer, Bool.or_eq_true, isUnconditional_iff, isSkip_iff]
  simp only [or_assoc]

/-- Settles O24: SYS is the advance, and its words are the rest of family 0. -/
theorem sysOnlyAdvancesPc : Obligations.SysOnlyAdvancesPc := by
  refine fun nnn => ⟨fun hcls hret => ?_, fun s => ⟨s.advance, rfl, pcPlus_two_advance rfl, onlyRegs_setPc s _⟩⟩
  rw [atNNN_eq]
  exact decode_encNNN_sys hcls hret

/-- Settles O25: JP writes `pc` alone, so a jump to its own address writes what `pc` holds. -/
theorem jpLoadsPc : Obligations.JpLoadsPc := by
  refine fun nnn => ⟨?_, fun s => ⟨⟨s.setPc (zextNNN nnn), rfl, zextNNN_toNat nnn, onlyRegs_setPc s _⟩, fun hpc => ?_⟩⟩
  · rw [← decode_encNNN_jp, ← or_atNNN]; rfl
  · have hself : zextNNN nnn = s.pc := BitVec.eq_of_toNat_eq ((zextNNN_toNat nnn).trans hpc.symm)
    exact congrArg (fun w => Host.Outcome.next (s.setPc w)) hself

/-- Settles O27: JP V0 writes `pc` alone, and the sum of 12 and 8 bits is below 65536. -/
theorem jpV0AddsTheOffset : Obligations.JpV0AddsTheOffset := by
  refine fun nnn => ⟨?_, fun s => ⟨s.setPc (s.offsetTarget nnn), rfl, s.offsetTarget_toNat nnn, ?_, onlyRegs_setPc s _⟩⟩
  · rw [← decode_encNNN_jpV0, ← or_atNNN]; rfl
  · exact (s.offsetTarget_toNat nnn).trans (Nat.mod_eq_of_lt (imm12_add_byte_lt nnn _))

end Machine
end Sys2Proof
end

section
/-! The comparing skips (41_skips.md): the words of the `XNN` and `XY0` skips, and what a skip does whatever its condition. -/

namespace Sys2Proof

/-! ### The words of SE and SNE -/

@[simp] theorem nib1_encXNN (f : Nibble) (x : Reg) (nn : Byte) : nib1 (encXNN f x nn) = f := nib1_ofNibbles _ _ _ _

@[simp] theorem nib1_encXY (f n : Nibble) (x y : Reg) : nib1 (encXY f x y n) = f := nib1_ofNibbles _ _ _ _

@[simp] theorem nib4_encXY (f n : Nibble) (x y : Reg) : nib4 (encXY f x y n) = n := nib4_ofNibbles _ _ _ _

theorem decode_encXNN_seImm (x : Reg) (nn : Byte) : decode (encXNN 0x3 x nn) = .instr (.seImm x nn) := by simp [decode]

theorem decode_encXNN_sneImm (x : Reg) (nn : Byte) : decode (encXNN 0x4 x nn) = .instr (.sneImm x nn) := by simp [decode]

theorem decode_encXY_seReg (x y : Reg) : decode (encXY 0x5 x y 0x0) = .instr (.seReg x y) := by simp [decode]

theorem decode_encXY_sneReg (x y : Reg) : decode (encXY 0x9 x y 0x0) = .instr (.sneReg x y) := by simp [decode]

namespace Machine

/-! ### A skip writes `pc` alone (41_skips.md R136) -/

theorem pcPlus_skipIf (s : State) (c : Bool) : PcPlus (if c then 4 else 2) s (s.skipIf c) := by
  cases c <;> exact BitVec.toNat_add _ _

theorem onlyRegs_skipIf (s : State) (c : Bool) : OnlyRegs [] s (s.skipIf c) := onlyRegs_setPc s _

/-- SE goes on by 4 where the two bytes are equal. -/
theorem pcPlus_skipIf_beq (s : State) (a b : Byte) : PcPlus (if a = b then 4 else 2) s (s.skipIf (a == b)) := by
  simpa only [beq_iff_eq] using pcPlus_skipIf s (a == b)

/-- SNE goes on by 2 where the two bytes are equal. -/
theorem pcPlus_skipIf_bne (s : State) (a b : Byte) : PcPlus (if a = b then 2 else 4) s (s.skipIf (a != b)) := by
  simpa only [bne_iff_ne, ne_eq, ite_not] using pcPlus_skipIf s (a != b)

/-- Settles O29: the four words by their fields; each skip is `skipIf` on its comparison, of any two bytes. -/
theorem skipsCompareForEquality : Obligations.SkipsCompareForEquality := by
  refine fun x y nn => ⟨?_, ?_, ?_, ?_, fun s =>
    ⟨⟨_, rfl, pcPlus_skipIf_beq s _ _, onlyRegs_skipIf s _⟩, ⟨_, rfl, pcPlus_skipIf_bne s _ _, onlyRegs_skipIf s _⟩,
      ⟨_, rfl, pcPlus_skipIf_beq s _ _, onlyRegs_skipIf s _⟩, ⟨_, rfl, pcPlus_skipIf_bne s _ _, onlyRegs_skipIf s _⟩⟩⟩
  · rw [← decode_encXNN_seImm, ← or_atX_atNN]; rfl
  · rw [← decode_encXNN_sneImm, ← or_atX_atNN]; rfl
  · rw [← decode_encXY_seReg, ← or_atX_atY]; rfl
  · rw [← decode_encXY_sneReg, ← or_atX_atY]; rfl

end Machine
end Sys2Proof
end

section
/-! The register-immediate instructions (42_register_immediate.md): the words of LD and ADD with an immediate, and what an
instruction that writes one register and goes on leaves as it is. -/

namespace Sys2Proof

/-! ### The words of LD and ADD with an immediate -/

theorem decode_encXNN_ldImm (x : Reg) (nn : Byte) : decode (encXNN 0x6 x nn) = .instr (.ldImm x nn) := by simp [decode]

theorem decode_encXNN_addImm (x : Reg) (nn : Byte) : decode (encXNN 0x7 x nn) = .instr (.addImm x nn) := by simp [decode]

namespace Machine

/-! ### One register written, then `pc + 2` -/

theorem State.readV_writeV_advance_same (s : State) (x : Reg) (b : Byte) : (s.writeV x b).advance.readV x = b := by
  rw [State.advance_readV, State.writeV_readV, if_pos rfl]

/-- Writing one register and going on changes no other register, and nothing else but `pc`. -/
theorem onlyRegs_writeV_advance (s : State) (x : Reg) (b : Byte) : OnlyRegs [x] s (s.writeV x b).advance := by
  refine ⟨fun k hk => ?_, rfl, fun _ => rfl, ⟨rfl, rfl, rfl, rfl⟩, ⟨rfl, rfl, rfl, rfl, rfl⟩, rfl, rfl, rfl⟩
  rw [State.advance_readV, State.writeV_readV, if_neg (List.ne_of_not_mem_cons hk)]

/-- Settles O31: the two words by their fields; both instructions write one register and go on, ADD the wrapped sum. -/
theorem immediatesLoadAndAddWithoutAFlag : Obligations.ImmediatesLoadAndAddWithoutAFlag := by
  refine fun x nn => ⟨?_, ?_, fun s => ⟨⟨_, rfl, s.readV_writeV_advance_same x nn, ?_⟩, ⟨_, rfl, ?_, ?_⟩⟩⟩
  · rw [← decode_encXNN_ldImm, ← or_atX_atNN]; rfl
  · rw [← decode_encXNN_addImm, ← or_atX_atNN]; rfl
  · exact ⟨pcPlus_two_advance rfl, onlyRegs_writeV_advance s x nn⟩
  · rw [State.readV_writeV_advance_same]; exact BitVec.toNat_add _ _
  · exact ⟨pcPlus_two_advance rfl, onlyRegs_writeV_advance s x _⟩

end Machine
end Sys2Proof
end

section
/-! The ALU (43_alu.md): the words of LD, ADD, SUB and SUBN, the carry and not-borrow flags as numbers, and what an instruction
that writes a result and then VF does. -/

namespace Sys2Proof

/-! ### The words of LD, ADD, SUB and SUBN -/

theorem decode_encXY_ldReg (x y : Reg) : decode (encXY 0x8 x y 0x0) = .instr (.ldReg x y) := by simp [decode, decodeAlu]

theorem decode_encXY_addReg (x y : Reg) : decode (encXY 0x8 x y 0x4) = .instr (.addReg x y) := by simp [decode, decodeAlu]

theorem decode_encXY_subReg (x y : Reg) : decode (encXY 0x8 x y 0x5) = .instr (.subReg x y) := by simp [decode, decodeAlu]

theorem decode_encXY_subnReg (x y : Reg) : decode (encXY 0x8 x y 0x7) = .instr (.subnReg x y) := by simp [decode, decodeAlu]

namespace Machine

/-! ### The flags and the difference on natural numbers -/

theorem flagByte_decide_toNat (p : Prop) [Decidable p] : (flagByte (decide p)).toNat = if p then 1 else 0 := by
  by_cases hp : p <;> simp [flagByte, hp]

theorem carryFlag_toNat (a b : Byte) : (carryFlag a b).toNat = if a.toNat + b.toNat > 255 then 1 else 0 :=
  flagByte_decide_toNat _

/-- The flag is the complement of borrow (43_alu.md R169). -/
theorem notBorrowFlag_toNat (a b : Byte) : (notBorrowFlag a b).toNat = if a.toNat < b.toNat then 0 else 1 := by
  rw [notBorrowFlag, flagByte_decide_toNat, ← ite_not]
  simp only [Nat.not_le]

/-- A subtraction that borrows takes its 256 from outside the byte. -/
theorem byte_sub_toNat (a b : Byte) :
    (a - b).toNat = if a.toNat < b.toNat then a.toNat + 256 - b.toNat else a.toNat - b.toNat := by
  have hb := b.isLt
  split
  · next hlt => rw [BitVec.toNat_sub_of_lt hlt]; omega
  · next hge => exact BitVec.toNat_sub_of_le (Nat.le_of_not_lt hge)

/-! ### A result, then VF, then `pc + 2` -/

/-- The flag is written last, so it stays whatever the destination (43_alu.md R172). -/
theorem State.resultThenFlag_readV_VF (s : State) (x : Reg) (r f : Byte) : (s.resultThenFlag x r f).readV VF = f :=
  State.readV_writeV_advance_same _ _ _

theorem State.resultThenFlag_readV_of_ne (s : State) {x : Reg} (hx : x ≠ VF) (r f : Byte) :
    (s.resultThenFlag x r f).readV x = r := by
  rw [State.resultThenFlag, State.advance_readV, State.writeV_readV, if_neg hx, State.writeV_readV, if_pos rfl]

theorem pcPlus_resultThenFlag (s : State) (x : Reg) (r f : Byte) : PcPlus 2 s (s.resultThenFlag x r f) :=
  pcPlus_two_advance rfl

theorem onlyRegs_resultThenFlag (s : State) (x : Reg) (r f : Byte) : OnlyRegs [x, VF] s (s.resultThenFlag x r f) := by
  refine ⟨fun k hk => ?_, rfl, fun _ => rfl, ⟨rfl, rfl, rfl, rfl⟩, ⟨rfl, rfl, rfl, rfl, rfl⟩, rfl, rfl, rfl⟩
  have hx : k ≠ x := List.ne_of_not_mem_cons hk
  have hVF : k ≠ VF := List.ne_of_not_mem_cons (List.not_mem_of_not_mem_cons hk)
  rw [State.resultThenFlag, State.advance_readV, State.writeV_readV, if_neg hVF, State.writeV_readV, if_neg hx]

/-- SUB and SUBN differ only in which register is `a` (43_alu.md R165, R167). -/
theorem resultThenFlag_sub_spec (s : State) (x : Reg) (a b : Byte) :
    let t := s.resultThenFlag x (a - b) (notBorrowFlag a b)
    (x ≠ VF → (t.readV x).toNat = if a.toNat < b.toNat then a.toNat + 256 - b.toNat else a.toNat - b.toNat) ∧
      (t.readV VF).toNat = (if a.toNat < b.toNat then 0 else 1) ∧ PcPlus 2 s t ∧ OnlyRegs [x, VF] s t := by
  refine ⟨fun hx => ?_, ?_, pcPlus_resultThenFlag s x _ _, onlyRegs_resultThenFlag s x _ _⟩
  · rw [s.resultThenFlag_readV_of_ne hx, byte_sub_toNat]
  · rw [State.resultThenFlag_readV_VF, notBorrowFlag_toNat]

/-! ### The statements -/

/-- Settles O33: the word by its fields; LD writes one register and goes on. -/
theorem moveCopiesARegister : Obligations.MoveCopiesARegister := by
  refine fun x y => ⟨?_, fun s =>
    ⟨_, rfl, s.readV_writeV_advance_same x _, pcPlus_two_advance rfl, onlyRegs_writeV_advance s x _⟩⟩
  rw [← decode_encXY_ldReg, ← or_atX_atY]; rfl

/-- Settles O35: the word by its fields; the wrapped sum stays where VF does not overwrite it, the carry always. -/
theorem addWritesTheSumThenTheCarry : Obligations.AddWritesTheSumThenTheCarry := by
  refine fun x y => ⟨?_, fun s =>
    ⟨_, rfl, fun hx => ?_, ?_, pcPlus_resultThenFlag s x _ _, onlyRegs_resultThenFlag s x _ _⟩⟩
  · rw [← decode_encXY_addReg, ← or_atX_atY]; rfl
  · rw [s.resultThenFlag_readV_of_ne hx]; exact BitVec.toNat_add _ _
  · rw [State.resultThenFlag_readV_VF, carryFlag_toNat]

/-- Settles O36: the two words by their fields; both instructions are one subtraction, with the operands exchanged. -/
theorem subtractionsWriteTheDifferenceThenNotBorrow : Obligations.SubtractionsWriteTheDifferenceThenNotBorrow := by
  refine fun x y => ⟨?_, ?_, ?_⟩
  · rw [← decode_encXY_subReg, ← or_atX_atY]; rfl
  · rw [← decode_encXY_subnReg, ← or_atX_atY]; rfl
  · rintro s _ _ rfl rfl
    exact ⟨⟨_, rfl, resultThenFlag_sub_spec s x _ _⟩, ⟨_, rfl, resultThenFlag_sub_spec s x _ _⟩⟩

end Machine
end Sys2Proof
end

section
/-! The index register (44_index_memory.md): the word of LD I, the frame of I (10_state.md R23), and how high the instructions
that write I can take it. -/

namespace Sys2Proof

/-! ### The word of LD I -/

theorem decode_encNNN_ldI (nnn : Imm12) : decode (encNNN 0xA nnn) = .instr (.ldI nnn) := by simp [decode]

namespace Machine

/-! ### What leaves I as it is -/

theorem i_of_next {s t u : State} (h : (.next u : Result) = .next t) (hu : u.i = s.i) : t.i = s.i := by
  cases h; exact hu

theorem State.writeBytes_i {s t : State} {base : Nat} {bs : List Byte} (h : s.writeBytes base bs = .ok t) :
    t.i = s.i := by
  obtain ⟨rfl, -⟩ := State.writeBytes_ok h; rfl

theorem State.pop_i {s : State} {r : Word × State} (h : s.pop = .ok r) : r.2.i = s.i := by
  obtain ⟨_, -, hr⟩ := State.pop_eq_ok h
  rw [hr, State.setStack_i]

theorem State.push_i {s t : State} {w : Word} (h : s.push w = .ok t) : t.i = s.i := by
  by_cases hfull : s.cfg.stackDepth = some s.stack.length
  · rw [State.push_error s w hfull] at h; cases h
  · rw [State.push_ok s w hfull] at h; cases h; rfl

theorem pollKeys_i {x : Reg} {s t : State} (h : pollKeys x s = .next t) : t.i = s.i := by
  rcases pollKeys_cases x s with ⟨-, hp⟩ | ⟨_, -, hp | hp⟩ <;> exact i_of_next (hp.symm.trans h) rfl

/-- I changes in ANNN, FX1E and FX29 only: every other instruction writes other fields, at once, past a check, or past an
operation on the stack, the memory or the keys, which keeps I. -/
theorem exec_i_eq {i : Instr} {s t : State} (h : exec i s = .next t) (hld : ∀ nnn, i ≠ .ldI nnn)
    (hadd : ∀ x, i ≠ .addI x) (hglyph : ∀ x, i ≠ .ldF x) : t.i = s.i := by
  cases i with
  | ldI nnn => exact absurd rfl (hld nnn)
  | addI x => exact absurd rfl (hadd x)
  | ldF x => exact absurd rfl (hglyph x)
  | cls | sys | jp | jpV0 | seImm | sneImm | seReg | sneReg | ldImm | addImm | ldReg | orReg | andReg | xorReg | addReg
  | subReg | shr | subnReg | shl | rnd | ldVxDT | ldDTVx | ldSTVx => exact i_of_next h rfl
  | drw | skp | sknp | ldVxMem =>
    obtain ⟨_, -, h⟩ := orFault_next h
    exact i_of_next h rfl
  | ret =>
    obtain ⟨_, hpop, h⟩ := orFault_next h
    exact i_of_next h ((State.setPc_i _ _).trans (State.pop_i hpop))
  | call =>
    obtain ⟨_, hpush, h⟩ := orFault_next h
    exact i_of_next h ((State.setPc_i _ _).trans (State.push_i hpush))
  | ldB | ldMemVx =>
    obtain ⟨_, hw, h⟩ := orFault_next h
    exact i_of_next h ((State.advance_i _).trans (State.writeBytes_i hw))
  | ldVxK => exact pollKeys_i h

/-! ### How high ANNN and FX29 take I -/

theorem execLdI_i_le {nnn : Imm12} {s t : State} (h : exec (.ldI nnn) s = .next t) : t.i.toNat ≤ 0xFFF := by
  cases h
  rw [State.advance_i, State.setI_i, zextNNN_toNat]
  exact Nat.le_of_lt_succ nnn.isLt

/-- The last of the 16 glyphs stands at 75. -/
theorem glyphAddress_le (d : Fin 16) : (glyphAddress d).toNat ≤ 75 := by
  revert d; decide

theorem execLdF_i_le {x : Reg} {s t : State} (h : exec (.ldF x) s = .next t) : t.i.toNat ≤ 75 := by
  obtain ⟨d, -, h⟩ := orFault_next h
  cases h
  exact glyphAddress_le d

/-- ANNN and FX29 answer small addresses, and the rest keep I: only FX1E takes it above 0xFFF (44_index_memory.md R190). -/
theorem eq_addI_of_i_above {i : Instr} {s t : State} (h : exec i s = .next t) (hs : s.i.toNat ≤ 0xFFF)
    (ht : 0xFFF < t.i.toNat) : ∃ x, i = .addI x := by
  by_contra hadd
  refine absurd ht (Nat.not_lt.2 ?_)
  by_cases hld : ∃ nnn, i = .ldI nnn
  · obtain ⟨_, rfl⟩ := hld
    exact execLdI_i_le h
  by_cases hglyph : ∃ x, i = .ldF x
  · obtain ⟨_, rfl⟩ := hglyph
    exact (execLdF_i_le h).trans (by decide)
  · rw [exec_i_eq h (not_exists.1 hld) (not_exists.1 hadd) (not_exists.1 hglyph)]
    exact hs

/-- Settles O38: LD I writes I and goes on; what takes I above 0xFFF is neither LD I, nor FX29, nor one that keeps I. -/
theorem loadIndexWritesI : Obligations.LoadIndexWritesI := by
  refine ⟨fun nnn => ⟨?_, fun s => ?_⟩, fun _ _ _ => eq_addI_of_i_above⟩
  · rw [← decode_encNNN_ldI, ← or_atNNN]; rfl
  · exact ⟨(s.setI (zextNNN nnn)).advance, rfl, zextNNN_toNat nnn, pcPlus_two_advance rfl, onlyRegs_setPc _ _⟩

end Machine
end Sys2Proof
end

section
/-! The display and the timers (45_display_timer_key.md): the words of FX15 and FX18, the blank display, and the instructions that
write one unit and go on. -/

namespace Sys2Proof

/-! ### The words of LD DT and LD ST -/

@[simp] theorem nib1_encXFF (f a n : Nibble) (x : Reg) : nib1 (encXFF f x a n) = f := nib1_ofNibbles _ _ _ _

@[simp] theorem nib3_encXFF (f a n : Nibble) (x : Reg) : nib3 (encXFF f x a n) = a := nib3_ofNibbles _ _ _ _

@[simp] theorem nib4_encXFF (f a n : Nibble) (x : Reg) : nib4 (encXFF f x a n) = n := nib4_ofNibbles _ _ _ _

theorem decode_encXFF_ldDTVx (x : Reg) : decode (encXFF 0xF x 0x1 0x5) = .instr (.ldDTVx x) := by simp [decode, decodeMisc]

theorem decode_encXFF_ldSTVx (x : Reg) : decode (encXFF 0xF x 0x1 0x8) = .instr (.ldSTVx x) := by simp [decode, decodeMisc]

namespace Machine

/-! ### The blank display -/

@[simp] theorem Display.cell_blankDisplay (p : Pixel) : Display.cell blankDisplay p = false := by
  have hrow : blankDisplay[p.y] = 0 := Vector.getElem_replicate _
  rw [Display.cell, hrow]; exact BitVec.getLsbD_zero

/-- On a display that is blank already, CLS only goes on. -/
theorem execCls_of_blank {s : State} (h : s.disp = blankDisplay) : execCls s = .next s.advance := by
  rw [execCls, ← h]; rfl

/-! ### The statements -/

/-- Settles O46: CLS puts the blank display in place and goes on, so that a second CLS finds it blank and only goes on. -/
theorem clsClearsEveryCell : Obligations.ClsClearsEveryCell := by
  refine ⟨by decide, fun s => ⟨(s.setDisp blankDisplay).advance, rfl, fun k => ?_, pcPlus_two_advance rfl, onlyRegs_setPc _ _,
    (s.setDisp blankDisplay).advance.advance, execCls_of_blank rfl, rfl, pcPlus_two_advance rfl⟩⟩
  exact Display.cell_blankDisplay (Pixel.ofIndex k)

/-- Settles O49: the two words by their fields; each instruction writes its timer, whatever the register holds, and goes on. -/
theorem timerWritesTakeTheRegister : Obligations.TimerWritesTakeTheRegister := by
  refine fun x => ⟨?_, ?_, fun s => ⟨⟨(s.setDt (s.readV x)).advance, rfl, rfl, pcPlus_two_advance rfl, onlyRegs_setPc _ _⟩,
    ⟨(s.setSt (s.readV x)).advance, rfl, rfl, pcPlus_two_advance rfl, onlyRegs_setPc _ _⟩⟩⟩
  · rw [← decode_encXFF_ldDTVx, ← or_atX]; rfl
  · rw [← decode_encXFF_ldSTVx, ← or_atX]; rfl

end Machine
end Sys2Proof
end

section
/-! Encoding and decoding as a whole (30_encoding.md): decoder and encoder are inverse, both agree with the opcode map, and
what no row matches. -/

namespace Sys2Proof

/-! ### Decode of encode -/

/-- What decodes from its own word, family by family: level 1 reads the family, level 2 the nibbles that stand in the form. -/
theorem decode_encode {i : Instr} (hwf : i.wf = true) : decode (encode i) = .instr i := by
  cases i with
  | cls | ret => decide
  | sys nnn =>
    obtain ⟨hcls, hret⟩ : nnn ≠ 0x0E0 ∧ nnn ≠ 0x0EE := by simpa [Instr.wf] using hwf
    exact decode_encNNN_sys hcls hret
  | jp | call | ldI | jpV0 => simp [encode, decode]
  | seImm | sneImm | ldImm | addImm | rnd => simp [encode, decode]
  | seReg | sneReg | drw => simp [encode, decode]
  | ldReg | orReg | andReg | xorReg | addReg | subReg | shr | subnReg | shl => simp [encode, decode, decodeAlu]
  | skp | sknp => simp [encode, decode, decodeKey]
  | ldVxDT | ldVxK | ldDTVx | ldSTVx | addI | ldF | ldB | ldMemVx | ldVxMem => simp [encode, decode, decodeMisc]

/-- Settles O1: every form gives its fields back, and SYS is told from CLS and RET by its `NNN`. -/
theorem decodeOfEncodeIsTheInstruction : Obligations.DecodeOfEncodeIsTheInstruction := fun _ => decode_encode

/-! ### Encode of decode -/

/-- Family 0: the three forms are the word, and a SYS is neither of the two exact words. -/
theorem encode_of_decodeZero {w : Word} {i : Instr} (hf : nib1 w = 0x0) (h : decodeZero w = .instr i) :
    encode i = w ∧ i.wf = true := by
  by_cases hcls : immNNN w = 0x0E0
  · have hw : w = 0x00E0 := by rw [← encNNN_fields hf, hcls]; rfl
    subst hw; cases h; decide
  by_cases hret : immNNN w = 0x0EE
  · have hw : w = 0x00EE := by rw [← encNNN_fields hf, hret]; rfl
    subst hw; cases h; decide
  rw [decodeZero_eq_sys hcls hret] at h
  cases h
  exact ⟨encNNN_fields hf, by simpa [Instr.wf] using ⟨hcls, hret⟩⟩

theorem encode_of_decodeAlu {w : Word} {i : Instr} (hf : nib1 w = 0x8) (h : decodeAlu w = .instr i) :
    encode i = w ∧ i.wf = true := by
  unfold decodeAlu at h
  split at h <;> cases h <;> exact ⟨encXY_fields hf ‹_›, rfl⟩

theorem encode_of_decodeKey {w : Word} {i : Instr} (hf : nib1 w = 0xE) (h : decodeKey w = .instr i) :
    encode i = w ∧ i.wf = true := by
  unfold decodeKey at h
  split at h <;> cases h <;> exact ⟨encXFF_fields hf ‹_› ‹_›, rfl⟩

theorem encode_of_decodeMisc {w : Word} {i : Instr} (hf : nib1 w = 0xF) (h : decodeMisc w = .instr i) :
    encode i = w ∧ i.wf = true := by
  unfold decodeMisc at h
  split at h <;> cases h <;> exact ⟨encXFF_fields hf ‹_› ‹_›, rfl⟩

/-- Families 5 and 9 have one row, where `n4` is 0. -/
theorem encode_of_decode_oneRow {w : Word} {f : Nibble} {i j : Instr} (hf : nib1 w = f)
    (hj : encode j = encXY f (regX w) (regY w) 0x0 ∧ j.wf = true)
    (h : (if nib4 w = 0 then .instr j else .unsupportedOpcode w : Decoded) = .instr i) : encode i = w ∧ i.wf = true := by
  obtain ⟨hj, hwf⟩ := hj
  split at h
  · next h4 => cases h; exact ⟨hj.trans (encXY_fields hf h4), hwf⟩
  · cases h

/-- A word that decodes is the word of its instruction: each family's form, applied to the fields, gives the word back. -/
theorem encode_of_decode {w : Word} {i : Instr} (h : decode w = .instr i) : encode i = w ∧ i.wf = true := by
  unfold decode at h
  split at h <;> rename_i hf
  · exact encode_of_decodeZero hf h
  iterate 2 · cases h; exact ⟨encNNN_fields hf, rfl⟩
  iterate 2 · cases h; exact ⟨encXNN_fields hf, rfl⟩
  · exact encode_of_decode_oneRow hf ⟨rfl, rfl⟩ h
  iterate 2 · cases h; exact ⟨encXNN_fields hf, rfl⟩
  · exact encode_of_decodeAlu hf h
  · exact encode_of_decode_oneRow hf ⟨rfl, rfl⟩ h
  iterate 2 · cases h; exact ⟨encNNN_fields hf, rfl⟩
  · cases h; exact ⟨encXNN_fields hf, rfl⟩
  · cases h; exact ⟨encXY_fields hf rfl, rfl⟩
  · exact encode_of_decodeKey hf h
  · exact encode_of_decodeMisc hf h
  · cases h

/-- Settles O2: the word is its form applied to its fields, family by family. -/
theorem encodeOfDecodeIsTheWord : Obligations.EncodeOfDecodeIsTheWord := fun _ _ => encode_of_decode

/-! ### The opcode map -/

/-- The word of an instruction is its row's match with the operands or-ed in (30_encoding.md R81, R86). -/
theorem encode_eq_row_or_operands (i : Instr) : encode i = (opcodeRow i).1 ||| operandBits i := by
  cases i with
  | cls | ret => decide
  | sys | jp | call | ldI | jpV0 => exact (or_atNNN _ _).symm
  | seImm | sneImm | ldImm | addImm | rnd => exact (or_atX_atNN _ _ _).symm.trans (BitVec.or_assoc _ _ _)
  | seReg | sneReg | ldReg | orReg | andReg | xorReg | addReg | subReg | shr | subnReg | shl =>
    exact (or_atX_atY _ _ _ _).symm.trans (BitVec.or_assoc _ _ _)
  | drw x y n =>
    exact (or_atX_atY_n _ _ _ _).symm.trans ((congrArg (· ||| _) (BitVec.or_assoc _ _ _)).trans (BitVec.or_assoc _ _ _))
  | skp | sknp | ldVxDT | ldVxK | ldDTVx | ldSTVx | addI | ldF | ldB | ldMemVx | ldVxMem => exact (or_atX _ _ _ _).symm

/-- A row's word with any operands decodes to the instruction. -/
theorem decode_row_or_operands {i : Instr} (hwf : i.wf = true) : decode ((opcodeRow i).1 ||| operandBits i) = .instr i := by
  rw [← encode_eq_row_or_operands, decode_encode hwf]

theorem ofNibbles_and (a b c d e f g h : Nibble) :
    ofNibbles a b c d &&& ofNibbles e f g h = ofNibbles (a &&& e) (b &&& f) (c &&& g) (d &&& h) := by
  unfold ofNibbles
  rw [← BitVec.and_append, ← BitVec.and_append, ← BitVec.and_append]

theorem nibble_and_fifteen (a : Nibble) : a &&& 0xF = a := BitVec.and_allOnes

/-- The three masks of the map that leave operand bits out: each keeps whole nibbles. -/
theorem ofNibbles_and_F000 (a b c d : Nibble) : ofNibbles a b c d &&& 0xF000 = ofNibbles a 0 0 0 := by
  rw [show (0xF000 : Word) = ofNibbles 0xF 0 0 0 from rfl, ofNibbles_and, nibble_and_fifteen]; simp

theorem ofNibbles_and_F00F (a b c d : Nibble) : ofNibbles a b c d &&& 0xF00F = ofNibbles a 0 0 d := by
  rw [show (0xF00F : Word) = ofNibbles 0xF 0 0 0xF from rfl, ofNibbles_and, nibble_and_fifteen, nibble_and_fifteen]; simp

theorem ofNibbles_and_F0FF (a b c d : Nibble) : ofNibbles a b c d &&& 0xF0FF = ofNibbles a 0 c d := by
  rw [show (0xF0FF : Word) = ofNibbles 0xF 0 0xF 0xF from rfl, ofNibbles_and]; simp only [nibble_and_fifteen]; simp

/-- The word of an instruction meets its row's match under its row's mask. -/
theorem encode_and_mask (i : Instr) : encode i &&& (opcodeRow i).2 = (opcodeRow i).1 := by
  cases i with
  | cls | ret => decide
  | sys | jp | call | ldI | jpV0 => exact ofNibbles_and_F000 _ _ _ _
  | seImm | sneImm | ldImm | addImm | rnd | drw => exact ofNibbles_and_F000 _ _ _ _
  | seReg | sneReg | ldReg | orReg | andReg | xorReg | addReg | subReg | shr | subnReg | shl =>
    exact ofNibbles_and_F00F _ _ _ _
  | skp | sknp | ldVxDT | ldVxK | ldDTVx | ldSTVx | addI | ldF | ldB | ldMemVx | ldVxMem => exact ofNibbles_and_F0FF _ _ _ _

/-- The mask of the rows of a family other than 0, given by its bits 15:12: the family has one row, or is told apart by `n4`,
or by `n3` and `n4` (30_encoding.md R85). -/
def familyMask (f : Word) : Word :=
  if f ∈ [0x5000#16, 0x8000#16, 0x9000#16] then 0xF00F else if f ∈ [0xE000#16, 0xF000#16] then 0xF0FF else 0xF000

/-- Outside family 0 the family says the mask. -/
theorem opcodeRow_mask {i : Instr} (h : (opcodeRow i).1 &&& 0xF000 ≠ 0) :
    (opcodeRow i).2 = familyMask ((opcodeRow i).1 &&& 0xF000) := by
  cases i with
  | cls | ret | sys => exact absurd (by dsimp only [opcodeRow]; decide) h
  | _ => dsimp only [opcodeRow]; decide

/-- Every mask includes the family's bits. -/
theorem opcodeRow_mask_and_family (i : Instr) : (opcodeRow i).2 &&& 0xF000 = 0xF000 := by
  cases i <;> dsimp only [opcodeRow] <;> decide

theorem opcodeRow_match_and_mask (i : Instr) : (opcodeRow i).1 &&& (opcodeRow i).2 = (opcodeRow i).1 := by
  rw [← encode_and_mask, BitVec.and_assoc, BitVec.and_self]

/-- Rows that some word could both match have the same family, so outside family 0 the same mask, so the same match. -/
theorem opcodeRow_eq_of_overlap {i j : Instr}
    (h : (opcodeRow i).1 &&& ((opcodeRow i).2 &&& (opcodeRow j).2) =
      (opcodeRow j).1 &&& ((opcodeRow i).2 &&& (opcodeRow j).2)) :
    opcodeRow i = opcodeRow j ∨ ((opcodeRow i).1 &&& 0xF000 = 0 ∧ (opcodeRow j).1 &&& 0xF000 = 0) := by
  have hfam : (opcodeRow i).1 &&& 0xF000 = (opcodeRow j).1 &&& 0xF000 := by
    simpa only [BitVec.and_assoc, opcodeRow_mask_and_family] using congrArg (fun w : Word => w &&& 0xF000) h
  by_cases h0 : (opcodeRow i).1 &&& 0xF000 = 0
  · exact .inr ⟨h0, hfam ▸ h0⟩
  have hmask : (opcodeRow i).2 = (opcodeRow j).2 := by
    rw [opcodeRow_mask h0, hfam, ← opcodeRow_mask (hfam ▸ h0)]
  rw [← hmask, BitVec.and_self, opcodeRow_match_and_mask, hmask, opcodeRow_match_and_mask] at h
  exact .inl (Prod.ext h hmask)

/-- Settles O3: the forms of the encoder, the masks on them, and the families' masks. -/
theorem wordsMatchTheOpcodeMap : Obligations.WordsMatchTheOpcodeMap := by
  refine ⟨encode_eq_row_or_operands, fun w i h => ?_, fun _ _ => opcodeRow_eq_of_overlap⟩
  rw [← (encode_of_decode h).1, encode_and_mask]

/-! ### What no row matches (30_encoding.md R89) -/

theorem decodeZero_ne_unsupported (w u : Word) : decodeZero w ≠ .unsupportedOpcode u := by
  unfold decodeZero; split <;> exact Decoded.noConfusion

/-- The functions of family 8 that no row names are those besides 0 to 7 and E. -/
theorem mem_unusedAlu_iff (n : Nibble) : n ∈ [0x8#4, 0x9#4, 0xA#4, 0xB#4, 0xC#4, 0xD#4, 0xF#4] ↔
    n ∉ [0x0#4, 0x1#4, 0x2#4, 0x3#4, 0x4#4, 0x5#4, 0x6#4, 0x7#4, 0xE#4] := by
  revert n; decide

theorem decodeAlu_eq_unsupported (w u : Word) : decodeAlu w = .unsupportedOpcode u ↔
    u = w ∧ nib4 w ∈ [0x8#4, 0x9#4, 0xA#4, 0xB#4, 0xC#4, 0xD#4, 0xF#4] := by
  rw [mem_unusedAlu_iff]
  unfold decodeAlu
  split <;> simp_all [eq_comm (a := w)]

theorem decodeKey_eq_unsupported (w u : Word) : decodeKey w = .unsupportedOpcode u ↔
    u = w ∧ (nib3 w, nib4 w) ∉ [(0x9#4, 0xE#4), (0xA#4, 0x1#4)] := by
  unfold decodeKey
  split <;> simp_all [eq_comm (a := w)]

theorem decodeMisc_eq_unsupported (w u : Word) : decodeMisc w = .unsupportedOpcode u ↔
    u = w ∧ (nib3 w, nib4 w) ∉ [(0x0#4, 0x7#4), (0x0#4, 0xA#4), (0x1#4, 0x5#4), (0x1#4, 0x8#4), (0x1#4, 0xE#4),
       (0x2#4, 0x9#4), (0x3#4, 0x3#4), (0x5#4, 0x5#4), (0x6#4, 0x5#4)] := by
  unfold decodeMisc
  split <;> simp_all [eq_comm (a := w)]

/-- Families 5 and 9 refuse besides their one row. -/
theorem decode_oneRow_eq_unsupported (w u : Word) (i : Instr) :
    (if nib4 w = 0 then .instr i else .unsupportedOpcode w : Decoded) = .unsupportedOpcode u ↔ u = w ∧ nib4 w ≠ 0 := by
  split <;> simp_all [eq_comm (a := w)]

/-- The arm after the sixteen families is reached by no nibble. -/
theorem mem_allNibbles (n : Nibble) : n ∈ [0x0#4, 0x1#4, 0x2#4, 0x3#4, 0x4#4, 0x5#4, 0x6#4, 0x7#4, 0x8#4, 0x9#4, 0xA#4, 0xB#4,
    0xC#4, 0xD#4, 0xE#4, 0xF#4] := by
  revert n; decide

/-- Settles O4: families 5, 8, 9, E and F refuse where their level 2 has no row, the others never. -/
theorem unsupportedWordsAreTheFiveSets : Obligations.UnsupportedWordsAreTheFiveSets := by
  intro w u
  unfold decode
  split <;> rename_i hf
  case h_1 => simp [hf, decodeZero_ne_unsupported]
  case h_6 => rw [decode_oneRow_eq_unsupported]; simp [hf]
  case h_9 => rw [decodeAlu_eq_unsupported]; simp [hf]
  case h_10 => rw [decode_oneRow_eq_unsupported]; simp [hf]
  case h_15 => rw [decodeKey_eq_unsupported]; simp [hf]
  case h_16 => rw [decodeMisc_eq_unsupported]; simp [hf]
  case h_17 => exact absurd (mem_allNibbles (nib1 w)) (by simp_all)
  all_goals simp [hf]

/-- Settles O6: twelve words, decoded. -/
theorem sampleWordsDecode : Obligations.SampleWordsDecode := by
  unfold Obligations.SampleWordsDecode; decide

end Sys2Proof
end

section
/-! The step (70_reset_and_hazards.md R270): whose move it is, what a cycle of the CORE does, and what the driver does with a
fault. -/

namespace Sys2Proof.Machine

/-! ### Whose move it is -/

theorem step_core {s : State} (hf : s.fault = none) (hs : s.schedule = []) : step s = coreCycle s := by
  simp [step, hs, unlessLatched_none hf]

theorem step_cycle {s : State} {es : List Event} (hf : s.fault = none) (hs : s.schedule = .cycle :: es) :
    step s = coreCycle (s.setSchedule es) := by
  simp [step, hs, unlessLatched_none hf]

theorem step_tick {s : State} {es : List Event} (hf : s.fault = none) (hs : s.schedule = .tick :: es) :
    step s = .next (s.setSchedule es).tickTimers := by
  simp [step, hs, unlessLatched_none hf]

theorem step_keyInput {s : State} {k : Fin 16} {p : Bool} {es : List Event} (hf : s.fault = none)
    (hs : s.schedule = .keyInput k p :: es) : step s = .next ((s.setSchedule es).inputKey k p) := by
  simp [step, hs, unlessLatched_none hf]

/-- A load moves a latched machine as well. -/
theorem step_load {s : State} {l : Launch} {es : List Event} (hs : s.schedule = .load l :: es) :
    step s = loadSession l (s.setSchedule es) := by
  simp [step, hs]

theorem loadSession_of_fits {l : Launch} {s : State} (h : l.fits s.cfg.memSize) : loadSession l s = .next (s.boot l) :=
  if_pos h

theorem loadSession_of_not_fits {l : Launch} {s : State} (h : ¬ l.fits s.cfg.memSize) :
    loadSession l s = .refused .launchTooLarge :=
  if_neg h

/-- A latched fault is the answer of every move but a load. -/
theorem step_of_latched {s : State} {f : Fault} (hf : s.fault = some f) (hs : ∀ l es, s.schedule ≠ .load l :: es) :
    step s = .fault f := by
  unfold step
  split
  case h_5 l es h => exact absurd h (hs l es)
  all_goals exact unlessLatched_some hf _

/-! ### A cycle of the CORE -/

theorem coreCycle_of_awaiting {s : State} {x : Reg} (h : s.awaitingKey = some x) : coreCycle s = pollKeys x s := by
  simp [coreCycle, h]

theorem coreCycle_of_none {s : State} (h : s.awaitingKey = none) : coreCycle s = settle s (transition s) := by
  simp [coreCycle, h]

theorem State.fetchWord_of_lt {s : State} (h : s.pc.toNat + 1 < s.cfg.memSize) :
    s.fetchWord = .ok (wordOfBytes (s.byteAt s.pc.toNat) (s.byteAt (s.pc.toNat + 1))) :=
  s.inMemory_ok _ (.inr h)

theorem State.fetchWord_of_ge {s : State} (h : s.cfg.memSize ≤ s.pc.toNat + 1) :
    s.fetchWord = .error (.memoryAccessFault (max s.pc.toNat s.cfg.memSize)) :=
  s.inMemory_error _ Nat.two_pos (Nat.lt_succ_of_le h)

theorem transition_of_decode {s : State} {w : Word} {i : Instr} (hw : s.fetchWord = .ok w) (hd : decode w = .instr i) :
    transition s = exec i s := by
  simp [transition, hw, hd]

theorem transition_of_unsupported {s : State} {w u : Word} (hw : s.fetchWord = .ok w)
    (hd : decode w = .unsupportedOpcode u) : transition s = .fault (.unsupportedOpcode u) := by
  simp [transition, hw, hd]

theorem transition_of_fetch_error {s : State} {f : Fault} (h : s.fetchWord = .error f) : transition s = .fault f := by
  simp [transition, h]

/-- The cycle of a machine that awaits no key, on a word that decodes. -/
theorem coreCycle_of_decode {s : State} {w : Word} {i : Instr} (ha : s.awaitingKey = none) (hw : s.fetchWord = .ok w)
    (hd : decode w = .instr i) : coreCycle s = settle s (exec i s) := by
  rw [coreCycle_of_none ha, transition_of_decode hw hd]

/-- The step of a machine with the CORE alone to move, on a transition that faults. -/
theorem step_of_transition_fault {s : State} {f : Fault} (hf : s.fault = none) (ha : s.awaitingKey = none)
    (hs : s.schedule = []) (ht : transition s = .fault f) : step s = .next (s.takeFault f) := by
  rw [step_core hf hs, coreCycle_of_none ha, ht, settle_fault]

/-- The step of a machine with the CORE alone to move, on an instruction that completes. -/
theorem step_of_exec_next {s t : State} {w : Word} {i : Instr} (hf : s.fault = none) (ha : s.awaitingKey = none)
    (hs : s.schedule = []) (hw : s.fetchWord = .ok w) (hd : decode w = .instr i) (h : exec i s = .next t) :
    step s = .next t := by
  rw [step_core hf hs, coreCycle_of_decode ha hw hd, h, settle_next]

/-! ### What the driver does with a fault -/

theorem State.takeFault_of_halt {s : State} (f : Fault) (h : s.cfg.faultPolicy = .halt) :
    s.takeFault f = s.setFault (some f) := by
  simp [State.takeFault, h]

theorem State.takeFault_of_skip {s : State} (f : Fault) (h : s.cfg.faultPolicy = .skipWord) : s.takeFault f = s.advance := by
  simp [State.takeFault, h]

theorem State.takeFault_of_continue {s : State} (f : Fault) (h : s.cfg.faultPolicy = .logAndContinue) : s.takeFault f = s := by
  simp [State.takeFault, h]

/-! ### A run that stands still -/

/-- A machine whose step answers itself stays as it is for any number of steps. -/
theorem run_of_step_self {s : State} (h : step s = .next s) (n : Nat) : core.run n s = .next s := by
  induction n with
  | zero => rfl
  | succ n ih =>
    have hstep : core.step s = .next s := h
    simp only [Host.Core.run, hstep]
    exact ih

/-! ### The statements -/

/-- Settles O7: the fetch answers the word of the two bytes, and the cycle settles what its instruction does; a cycle named in
the schedule is the same cycle with that move taken off. -/
theorem stepRunsTheDecodedInstruction : Obligations.StepRunsTheDecodedInstruction := by
  intro s i hf ha hpc hd
  have hcore : s.schedule = [] → step s = settle s (exec i s) := fun hs => by
    rw [step_core hf hs, coreCycle_of_decode ha (State.fetchWord_of_lt hpc) hd]
  have hcycle : ∀ es, s.schedule = .cycle :: es → step s = settle (s.setSchedule es) (exec i (s.setSchedule es)) :=
    fun es hs => by rw [step_cycle hf hs, coreCycle_of_decode (s := s.setSchedule es) ha (State.fetchWord_of_lt hpc) hd]
  exact ⟨fun hs => ⟨fun t h => by rw [hcore hs, h, settle_next], fun f h => by rw [hcore hs, h, settle_fault]⟩,
    fun es hs => ⟨fun t h => by rw [hcycle es hs, h, settle_next], fun f h => by rw [hcycle es hs, h, settle_fault]⟩⟩

/-- Settles O8: either fault is the transition's before any instruction runs, and a refused word is the word fetched. -/
theorem fetchAndDecodeFaultsComeFirst : Obligations.FetchAndDecodeFaultsComeFirst := by
  intro s hf ha hs
  refine ⟨fun hpc => ?_, fun hpc w hd => ⟨?_, ?_⟩⟩
  · exact step_of_transition_fault hf ha hs (transition_of_fetch_error (State.fetchWord_of_ge hpc))
  · exact ((unsupportedWordsAreTheFiveSets _ w).1 hd).1
  · exact step_of_transition_fault hf ha hs (transition_of_unsupported (State.fetchWord_of_lt hpc) hd)

/-- Settles O9: the step hands the fault to the driver, whose policy latches it, goes on by 2, or does nothing. -/
theorem faultPolicyDecidesWhatFollowsAFault : Obligations.FaultPolicyDecidesWhatFollowsAFault := by
  intro s f hf ha hs ht
  have hstep := step_of_transition_fault hf ha hs ht
  refine ⟨fun hp => ⟨_, hstep, s.takeFault_of_halt f hp, ?_⟩,
    fun hp => ⟨s.advance, ?_, pcPlus_two_advance rfl, rfl⟩, fun hp => ?_⟩
  · rw [s.takeFault_of_halt f hp]
    exact step_of_latched rfl fun l es h => by rw [State.setFault_schedule, hs] at h; cases h
  · rw [hstep, s.takeFault_of_skip f hp]
  · rw [hstep, s.takeFault_of_continue f hp]

/-- Settles O10: a latched fault is the answer of every other move, and a load starts afresh. -/
theorem latchedFaultStopsAllButALoad : Obligations.LatchedFaultStopsAllButALoad := by
  refine fun s f hf => ⟨step_of_latched hf, fun l es hs hl => ⟨(s.setSchedule es).boot l, ?_, rfl⟩⟩
  rw [step_load hs]
  exact loadSession_of_fits hl

end Sys2Proof.Machine
end

section
/-! What an instruction changes and what it leaves as it is (00_scope.md R12), over all instructions: registers, memory,
units, and the fields it does not even look at. -/

namespace Sys2Proof.Machine

/-! ### What the instructions that check something first do when they complete -/

theorem execRet_next {s t : State} (h : exec .ret s = .next t) :
    ∃ ws a, s.stack = ws ++ [a] ∧ t = (s.setStack ws).setPc (a + 2) := by
  obtain ⟨⟨a, u⟩, hpop, h⟩ := orFault_next h
  obtain ⟨ws, hws, rfl⟩ := State.pop_eq_ok hpop
  cases h
  exact ⟨ws, a, hws, rfl⟩

theorem execCall_next {nnn : Imm12} {s t : State} (h : exec (.call nnn) s = .next t) :
    s.cfg.stackDepth ≠ some s.stack.length ∧ t = (s.setStack (s.stack ++ [s.pc])).setPc (zextNNN nnn) := by
  obtain ⟨u, hpush, h⟩ := orFault_next h
  by_cases hfull : s.cfg.stackDepth = some s.stack.length
  · rw [State.push_error s _ hfull] at hpush; cases hpush
  · rw [State.push_ok s _ hfull] at hpush; cases hpush; cases h
    exact ⟨hfull, rfl⟩

theorem pollKeys_next {x : Reg} {s t : State} (h : pollKeys x s = .next t) :
    ((∀ k, s.pressed k = false) ∧ t = s.setAwaiting (some x)) ∨
    (∃ k, s.pressed k = true ∧ (t = s.takeKey x k ∨ t = s.usePick.takeKey x k)) := by
  rcases pollKeys_cases x s with ⟨hno, hp⟩ | ⟨k, hk, hp | hp⟩ <;> cases hp.symm.trans h
  · exact .inl ⟨hno, rfl⟩
  · exact .inr ⟨k, hk, .inl rfl⟩
  · exact .inr ⟨k, hk, .inr rfl⟩

theorem execLdB_next {x : Reg} {s t : State} (h : exec (.ldB x) s = .next t) :
    s.i.toNat + 3 ≤ s.cfg.memSize ∧
      t = (s.setMemory (s.memory.writeList s.i.toNat (bcdDigits (s.readV x)))).advance := by
  obtain ⟨u, hw, h⟩ := orFault_next h
  obtain ⟨rfl, hfit⟩ := State.writeBytes_ok hw
  cases h
  exact ⟨hfit.resolve_left (by simp [bcdDigits]), rfl⟩

theorem execLdMemVx_next {x : Reg} {s t : State} (h : exec (.ldMemVx x) s = .next t) :
    s.i.toNat + (x.val + 1) ≤ s.cfg.memSize ∧
      t = (s.setMemory (s.memory.writeList s.i.toNat (s.readVs x))).advance := by
  obtain ⟨u, hw, h⟩ := orFault_next h
  obtain ⟨rfl, hfit⟩ := State.writeBytes_ok hw
  cases h
  rw [State.readVs_length] at hfit
  exact ⟨hfit.resolve_left (Nat.succ_ne_zero _), rfl⟩

/-- The bytes at the `n` addresses from I on, what FX65 and DXYN read. -/
def State.dataBytes (s : State) (n : Nat) : List Byte := (List.range n).map fun k => s.byteAt (s.i.toNat + k)

@[simp] theorem State.dataBytes_length (s : State) (n : Nat) : (s.dataBytes n).length = n := by simp [State.dataBytes]

theorem State.dataBytes_getElem (s : State) {n k : Nat} (h : k < n) :
    (s.dataBytes n)[k]? = some (s.byteAt (s.i.toNat + k)) := by simp [State.dataBytes, h]

theorem execLdVxMem_next {x : Reg} {s t : State} (h : exec (.ldVxMem x) s = .next t) :
    s.i.toNat + (x.val + 1) ≤ s.cfg.memSize ∧ t = (s.writeVs (s.dataBytes (x.val + 1))).advance := by
  obtain ⟨bs, hr, h⟩ := orFault_next h
  obtain ⟨rfl, hfit⟩ := State.inMemory_eq_ok hr
  cases h
  exact ⟨hfit.resolve_left (Nat.succ_ne_zero _), rfl⟩

/-- A drawing that completes: the sprite on the display, the collision in VF. -/
def State.drawn (s : State) (x y : Reg) (n : Nibble) : State :=
  ((s.setDisp (drawSprite s.disp (s.readV x) (s.readV y) (s.dataBytes n.toNat)).1).writeV VF
    (collisionFlag (drawSprite s.disp (s.readV x) (s.readV y) (s.dataBytes n.toNat)).2)).advance

theorem execDrw_next {x y : Reg} {n : Nibble} {s t : State} (h : exec (.drw x y n) s = .next t) :
    (n.toNat = 0 ∨ s.i.toNat + n.toNat ≤ s.cfg.memSize) ∧ t = s.drawn x y n := by
  obtain ⟨rows, hr, h⟩ := orFault_next h
  obtain ⟨rfl, hfit⟩ := State.inMemory_eq_ok hr
  cases h
  exact ⟨hfit, rfl⟩

/-! ### Memory -/

/-- An instruction that keeps memory has stored the empty block. -/
theorem stored_nil {i : Instr} {s t : State} (hl : storeLength i = 0) (hm : t.memory = s.memory) :
    ∃ bs : List Byte, bs.length = storeLength i ∧ (bs.length = 0 ∨ s.i.toNat + bs.length ≤ s.cfg.memSize) ∧
      t.memory = s.memory.writeList s.i.toNat bs :=
  ⟨[], hl.symm, .inl rfl, hm⟩

/-- The memory after an instruction is the memory before with a block stored at I, of `storeLength` bytes that all exist. -/
theorem exec_memory {i : Instr} {s t : State} (h : exec i s = .next t) :
    ∃ bs : List Byte, bs.length = storeLength i ∧ (bs.length = 0 ∨ s.i.toNat + bs.length ≤ s.cfg.memSize) ∧
      t.memory = s.memory.writeList s.i.toNat bs := by
  cases i with
  | cls | sys | jp | jpV0 | seImm | sneImm | seReg | sneReg | ldImm | addImm | ldReg | orReg | andReg | xorReg | addReg
  | subReg | shr | subnReg | shl | ldI | rnd | ldVxDT | ldDTVx | ldSTVx | addI => cases h; exact stored_nil rfl rfl
  | drw | skp | sknp | ldF | ldVxMem =>
    obtain ⟨_, -, h⟩ := orFault_next h
    cases h; exact stored_nil rfl rfl
  | ret => obtain ⟨_, _, -, rfl⟩ := execRet_next h; exact stored_nil rfl rfl
  | call => obtain ⟨-, rfl⟩ := execCall_next h; exact stored_nil rfl rfl
  | ldVxK => rcases pollKeys_next h with ⟨-, rfl⟩ | ⟨_, -, rfl | rfl⟩ <;> exact stored_nil rfl rfl
  | ldB x => obtain ⟨hfit, rfl⟩ := execLdB_next h; exact ⟨bcdDigits (s.readV x), rfl, .inr hfit, rfl⟩
  | ldMemVx x =>
    obtain ⟨hfit, rfl⟩ := execLdMemVx_next h
    exact ⟨_, s.readVs_length x, .inr ((s.readVs_length x).symm ▸ hfit), rfl⟩

/-- Settles O17: a block write at I leaves every address outside the block alone. -/
theorem memoryChangesOnlyInTheStoredBytes : Obligations.MemoryChangesOnlyInTheStoredBytes := by
  intro i s t hwf h a ha
  obtain ⟨bs, hl, -, hm⟩ := exec_memory h
  rw [State.byteAt, hm, Memory.read_writeList_outside hwf (hl ▸ ha), State.byteAt]

/-! ### Registers -/

theorem onlyRegs_flagThenResult (s : State) (x : Reg) (f r : Byte) : OnlyRegs [x, VF] s (s.flagThenResult x f r) := by
  refine ⟨fun k hk => ?_, rfl, fun _ => rfl, ⟨rfl, rfl, rfl, rfl⟩, ⟨rfl, rfl, rfl, rfl, rfl⟩, rfl, rfl, rfl⟩
  have hx : k ≠ x := List.ne_of_not_mem_cons hk
  have hVF : k ≠ VF := List.ne_of_not_mem_cons (List.not_mem_of_not_mem_cons hk)
  rw [State.flagThenResult, State.advance_readV, State.writeV_readV, if_neg hx, State.writeV_readV, if_neg hVF]

/-- A block load leaves the registers above its last one alone. -/
theorem State.writeVs_dataBytes_readV_of_lt (s : State) {n : Nat} {k : Reg} (h : n ≤ k.val) :
    (s.writeVs (s.dataBytes n)).readV k = s.readV k := by
  rw [State.writeVs_readV, List.getElem?_eq_none (by rwa [State.dataBytes_length]), Option.getD_none]

theorem State.writeVs_dataBytes_readV_of_ge (s : State) {n : Nat} {k : Reg} (h : k.val < n) :
    (s.writeVs (s.dataBytes n)).readV k = s.byteAt (s.i.toNat + k.val) := by
  rw [State.writeVs_readV, State.dataBytes_getElem s h, Option.getD_some]

/-- Settles O15: what completes writes no register, or its destination, or its destination and VF, or the block up to `Vx`. -/
theorem registersChangeOnlyAsDestinations : Obligations.RegistersChangeOnlyAsDestinations := by
  intro i s t h
  cases i with
  | cls | sys | jp | jpV0 | seImm | sneImm | seReg | sneReg | ldI | ldDTVx | ldSTVx | addI => cases h; exact fun _ _ => rfl
  | skp | sknp | ldF => obtain ⟨_, -, h⟩ := orFault_next h; cases h; exact fun _ _ => rfl
  | ret => obtain ⟨_, _, -, rfl⟩ := execRet_next h; exact fun _ _ => rfl
  | call => obtain ⟨-, rfl⟩ := execCall_next h; exact fun _ _ => rfl
  | ldB => obtain ⟨-, rfl⟩ := execLdB_next h; exact fun _ _ => rfl
  | ldMemVx => obtain ⟨-, rfl⟩ := execLdMemVx_next h; exact fun _ _ => rfl
  | ldImm | addImm | ldVxDT | ldReg | orReg | andReg | xorReg => cases h; exact (onlyRegs_writeV_advance s _ _).1
  | rnd => cases h; exact (onlyRegs_writeV_advance s.useRand _ _).1
  | ldVxK x =>
    rcases pollKeys_next h with ⟨-, rfl⟩ | ⟨_, -, rfl | rfl⟩
    · exact fun _ _ => rfl
    · exact (onlyRegs_writeV_advance s x _).1
    · exact (onlyRegs_writeV_advance s x _).1
  | addReg | subReg | subnReg => cases h; exact (onlyRegs_resultThenFlag s _ _ _).1
  | shr | shl => cases h; exact (onlyRegs_flagThenResult s _ _ _).1
  | drw => obtain ⟨-, rfl⟩ := execDrw_next h; exact (onlyRegs_writeV_advance (s.setDisp _) VF _).1
  | ldVxMem x =>
    obtain ⟨-, rfl⟩ := execLdVxMem_next h
    intro k hk
    have hlt : ¬ k ≤ x := by simpa [destRegs] using hk
    exact s.writeVs_dataBytes_readV_of_lt (Nat.lt_of_not_le hlt)

/-- Settles O16: the frame of I that LD I's statement rests on. -/
theorem indexChangesOnlyInThreeInstructions : Obligations.IndexChangesOnlyInThreeInstructions :=
  fun _ _ _ => exec_i_eq

/-! ### The other units -/

/-- What an instruction that completes leaves in the units besides registers and memory, the instructions that name a unit
left out (10_state.md R26, R29 to R33). -/
structure UnitsFrame (i : Instr) (s t : State) : Prop where
  stack : (∀ nnn, i ≠ .call nnn) → i ≠ .ret → t.stack = s.stack
  disp : i ≠ .cls → (∀ x y n, i ≠ .drw x y n) → t.disp = s.disp
  dt : (∀ x, i ≠ .ldDTVx x) → t.dt = s.dt
  st : (∀ x, i ≠ .ldSTVx x) → t.st = s.st
  awaitingKey : (∀ x, i ≠ .ldVxK x) → t.awaitingKey = s.awaitingKey
  key : t.key = s.key
  fault : t.fault = s.fault
  cfg : t.cfg = s.cfg
  schedule : t.schedule = s.schedule
  randIn : (∀ x nn, i ≠ .rnd x nn) → t.randIn = s.randIn
  pickIn : (∀ x, i ≠ .ldVxK x) → t.pickIn = s.pickIn

/-- Writing registers, I, `pc` and memory changes no unit. -/
theorem UnitsFrame.of_update (j : Instr) (s : State) (v : Vector Byte 16) (i pc : Word) (m : Memory) :
    UnitsFrame j s { s with v := v, i := i, pc := pc, memory := m } :=
  ⟨fun _ _ => rfl, fun _ _ => rfl, fun _ => rfl, fun _ => rfl, fun _ => rfl, rfl, rfl, rfl, rfl, fun _ => rfl, fun _ => rfl⟩

/-- Most instructions write registers, I, `pc` and memory alone; each of the rest writes the unit it names. -/
theorem exec_units {i : Instr} {s t : State} (h : exec i s = .next t) : UnitsFrame i s t := by
  cases i with
  | sys | jp | jpV0 | seImm | sneImm | seReg | sneReg | ldImm | addImm | ldReg | orReg | andReg | xorReg | addReg | subReg
  | shr | subnReg | shl | ldI | ldVxDT | addI => cases h; exact .of_update _ s _ _ _ _
  | skp | sknp | ldF => obtain ⟨_, -, h⟩ := orFault_next h; cases h; exact .of_update _ s _ _ _ _
  | ldVxMem => obtain ⟨-, rfl⟩ := execLdVxMem_next h; exact .of_update _ s _ _ _ _
  | ldB => obtain ⟨-, rfl⟩ := execLdB_next h; exact .of_update _ s _ _ _ _
  | ldMemVx => obtain ⟨-, rfl⟩ := execLdMemVx_next h; exact .of_update _ s _ _ _ _
  | ret => obtain ⟨_, _, -, rfl⟩ := execRet_next h; constructor <;> simp
  | call => obtain ⟨-, rfl⟩ := execCall_next h; constructor <;> simp
  | cls | ldDTVx | ldSTVx | rnd => cases h; constructor <;> simp
  | drw => obtain ⟨-, rfl⟩ := execDrw_next h; constructor <;> simp [State.drawn]
  | ldVxK => rcases pollKeys_next h with ⟨-, rfl⟩ | ⟨_, -, rfl | rfl⟩ <;> constructor <;> simp [State.takeKey]

/-- Settles O18: the frame of the units, field by field. -/
theorem unitsChangeOnlyByTheirInstructions : Obligations.UnitsChangeOnlyByTheirInstructions := by
  intro i s t h
  obtain ⟨hstack, hdisp, hdt, hst, hwait, hkey, hfault, hcfg, hsched, hrand, hpick⟩ := exec_units h
  exact ⟨hstack, hdisp, hdt, hst, hwait, hkey, hfault, hcfg, hsched, hrand, hpick⟩

/-! ### Fields an instruction does not look at -/

/-- A change of the next state moves from behind a check to where the next state is made, if the check answers alike. -/
theorem orFault_eq_onNext {α : Type} {f : State → State} {r : Except Fault α} {k k' : α → Result}
    (h : ∀ a, k' a = onNext f (k a)) : orFault r k' = onNext f (orFault r k) := by
  cases r with
  | error e => rfl
  | ok a => exact h a

/-- The same for a check that answers a changed value. -/
theorem orFault_map_eq_onNext {α : Type} {f : State → State} {g : α → α} {r r' : Except Fault α} {k k' : α → Result}
    (hr : r' = r.map g) (h : ∀ a, k' (g a) = onNext f (k a)) : orFault r' k' = onNext f (orFault r k) := by
  subst hr
  cases r with
  | error e => rfl
  | ok a => exact h a

section KeysAndSound

variable (s : State) (k : BitVec 16) (b : Byte)

/-- The key flags and ST replaced. -/
def State.setKeysSt : State := (s.setKeys k).setSt b

theorem State.push_setKeysSt (w : Word) : (s.setKeysSt k b).push w = (s.push w).map (·.setKeysSt k b) := by
  unfold State.push; rw [apply_ite (Except.map _)]; rfl

theorem State.pop_setKeysSt : (s.setKeysSt k b).pop = s.pop.map fun r => (r.1, r.2.setKeysSt k b) := by
  rcases List.eq_nil_or_concat s.stack with h | ⟨ws, w, h⟩
  · rw [State.pop_error h]; exact State.pop_error h
  · rw [List.concat_eq_append] at h
    rw [State.pop_ok h]; exact State.pop_ok h

theorem State.writeBytes_setKeysSt (base : Nat) (bs : List Byte) :
    (s.setKeysSt k b).writeBytes base bs = (s.writeBytes base bs).map (·.setKeysSt k b) := by
  unfold State.writeBytes State.inMemory; rw [apply_ite (Except.map _)]; rfl

/-- An instruction that reads no key and does not write ST does the same whatever the two hold, and carries them along. -/
theorem exec_setKeysSt {i : Instr} (hk : readsKeys i = false) (hst : ∀ x, i ≠ .ldSTVx x) :
    exec i (s.setKeysSt k b) = onNext (fun t => t.setKeysSt k b) (exec i s) := by
  cases i with
  | skp | sknp | ldVxK => cases hk
  | ldSTVx x => exact absurd rfl (hst x)
  | cls | sys | jp | jpV0 | seImm | sneImm | seReg | sneReg | ldImm | addImm | ldReg | orReg | andReg | xorReg | addReg
  | subReg | shr | subnReg | shl | ldI | rnd | ldVxDT | ldDTVx | addI => rfl
  | drw | ldF | ldVxMem => exact orFault_eq_onNext fun _ => rfl
  | ret => exact orFault_map_eq_onNext (s.pop_setKeysSt k b) fun _ => rfl
  | call => exact orFault_map_eq_onNext (s.push_setKeysSt k b _) fun _ => rfl
  | ldB | ldMemVx => exact orFault_map_eq_onNext (s.writeBytes_setKeysSt k b _ _) fun _ => rfl

end KeysAndSound

/-- Two changes that agree on the next state of an outcome give the same outcome. -/
theorem onNext_congr {f g : State → State} {r : Result} (h : ∀ t, r = .next t → f t = g t) : onNext f r = onNext g r := by
  cases r with
  | next t => exact congrArg Host.Outcome.next (h t rfl)
  | fault | refused => rfl

/-- A poll overwrites the key wait and looks at nothing but the keys and the pick supply. -/
theorem pollKeys_setSt (x : Reg) (s : State) (b : Byte) : pollKeys x (s.setSt b) = onNext (·.setSt b) (pollKeys x s) := by
  have h : (s.setSt b).pressedKeys = s.pressedKeys := rfl
  unfold pollKeys
  rw [h]
  split <;> rfl

/-- Settles O20: FX18 does not look at the keys either; any other instruction keeps ST, so replacing it by itself changes
nothing. -/
theorem onlyKeyInstructionsSeeTheKeys : Obligations.OnlyKeyInstructionsSeeTheKeys := by
  intro i s k hk
  by_cases hst : ∃ x, i = .ldSTVx x
  · obtain ⟨x, rfl⟩ := hst; rfl
  rw [not_exists] at hst
  refine (exec_setKeysSt s k s.st hk hst).trans (onNext_congr fun t h => ?_)
  rw [State.setKeysSt, ← (exec_units h).st hst]; rfl

/-- Settles O21: the key readers by their check or poll; any other instruction keeps the key flags, so replacing them by
themselves changes nothing. -/
theorem soundTimerIsNeverRead : Obligations.SoundTimerIsNeverRead := by
  refine fun i s b => ⟨fun hst => ?_, fun _ => rfl⟩
  by_cases hk : readsKeys i = false
  · refine (exec_setKeysSt s s.key b hk hst).trans (onNext_congr fun t h => ?_)
    rw [State.setKeysSt, ← (exec_units h).key]; rfl
  cases i with
  | skp | sknp => exact orFault_eq_onNext fun _ => rfl
  | ldVxK x => exact pollKeys_setSt x s b
  | _ => exact absurd rfl hk

end Sys2Proof.Machine
end

section
/-! Where an instruction faults (60_exceptions.md R230, R235): the checks, and the instructions that make them. -/

namespace Sys2Proof.Machine

/-! ### What a check before a next state answers -/

theorem orFault_inMemory_fault_iff {α : Type} {s : State} {base n : Nat} {r : α} {g : α → State} {f : Fault} :
    (orFault (s.inMemory base n r) fun a => .next (g a)) = .fault f ↔
      0 < n ∧ s.cfg.memSize < base + n ∧ f = .memoryAccessFault (max base s.cfg.memSize) := by
  by_cases h : n = 0 ∨ base + n ≤ s.cfg.memSize
  · rw [s.inMemory_ok r h, orFault_ok]
    exact ⟨nofun, fun ⟨h0, hlt, _⟩ => by omega⟩
  · rw [s.inMemory_error r (by omega) (by omega), orFault_error]
    exact ⟨fun hf => by cases hf; exact ⟨by omega, by omega, rfl⟩, fun ⟨_, _, hf⟩ => by rw [hf]⟩

theorem orFault_nibbleOperand_fault_iff {p : RangePolicy} {v : Byte} {g : Fin 16 → State} {f : Fault} :
    (orFault (nibbleOperand p v) fun d => .next (g d)) = .fault f ↔
      p = .fault ∧ 15 < v.toNat ∧ f = .operandRangeFault v := by
  rcases nibbleOperand_cases p v with ⟨hok, hp⟩ | ⟨herr, hp, hv⟩
  · rw [hok, orFault_ok]
    refine ⟨nofun, fun ⟨hfault, hv, _⟩ => ?_⟩
    subst hfault
    rcases hp with hp | hp
    · cases hp
    · omega
  · rw [herr, orFault_error]
    exact ⟨fun hf => by cases hf; exact ⟨hp, hv, rfl⟩, fun ⟨_, _, hf⟩ => by rw [hf]⟩

theorem execRet_fault_iff {s : State} {f : Fault} : exec .ret s = .fault f ↔ s.stack = [] ∧ f = .stackUnderflow := by
  rcases List.eq_nil_or_concat s.stack with h | ⟨ws, a, h⟩
  · have he : exec .ret s = .fault .stackUnderflow := by rw [exec, execRet, State.pop_error h, orFault_error]
    rw [he, Host.Outcome.fault.injEq]
    exact ⟨fun hf => ⟨h, hf.symm⟩, fun hf => hf.2.symm⟩
  · rw [List.concat_eq_append] at h
    rw [exec, execRet, State.pop_ok h, orFault_ok]
    exact ⟨nofun, fun hf => by simp [h] at hf⟩

theorem execCall_fault_iff {nnn : Imm12} {s : State} {f : Fault} :
    exec (.call nnn) s = .fault f ↔ s.cfg.stackDepth = some s.stack.length ∧ f = .stackOverflow s.pc := by
  by_cases h : s.cfg.stackDepth = some s.stack.length
  · rw [exec, execCall, State.push_error s _ h, orFault_error, Host.Outcome.fault.injEq]
    exact ⟨fun hf => ⟨h, hf.symm⟩, fun hf => hf.2.symm⟩
  · rw [exec, execCall, State.push_ok s _ h, orFault_ok]
    exact ⟨nofun, fun hf => absurd hf.1 h⟩

/-- A poll completes. -/
theorem exists_pollKeys_next (x : Reg) (s : State) : ∃ t, pollKeys x s = .next t := by
  rcases pollKeys_cases x s with ⟨-, h⟩ | ⟨_, -, h | h⟩ <;> exact ⟨_, h⟩

/-! ### The statement -/

/-- No instruction refuses: each ends in a next state, at once or behind one check, or in a poll. -/
theorem exec_ne_refused (i : Instr) (s : State) (r : Refusal) : exec i s ≠ .refused r := by
  intro h
  cases i with
  | ret | call | drw | skp | sknp | ldF | ldB | ldMemVx | ldVxMem => obtain ⟨_, -, h⟩ := orFault_refused h; cases h
  | ldVxK x => obtain ⟨t, ht⟩ := exists_pollKeys_next x s; cases ht.symm.trans h
  | _ => cases h

/-- Settles O11: RET and CALL by their stack, the memory instructions by their addresses, FX29 and the key skips by their
operand; every other instruction completes. -/
theorem transitionsFaultExactlyWhereStated : Obligations.TransitionsFaultExactlyWhereStated := by
  refine fun i s => ⟨exec_ne_refused i s, fun f => ?_⟩
  cases i with
  | ret => rw [execRet_fault_iff]; simp [dataLength]
  | call => rw [execCall_fault_iff]; simp [dataLength]
  | ldB => refine orFault_inMemory_fault_iff.trans ?_; simp [dataLength, bcdDigits]
  | ldMemVx => refine orFault_inMemory_fault_iff.trans ?_; simp [dataLength]
  | ldVxMem => refine orFault_inMemory_fault_iff.trans ?_; simp [dataLength]
  | drw => refine orFault_inMemory_fault_iff.trans ?_; simp [dataLength]
  | ldF => refine orFault_nibbleOperand_fault_iff.trans ?_; simp [dataLength]
  | skp => refine orFault_nibbleOperand_fault_iff.trans ?_; simp [dataLength]
  | sknp => refine orFault_nibbleOperand_fault_iff.trans ?_; simp [dataLength]
  | ldVxK x =>
    obtain ⟨t, ht⟩ := exists_pollKeys_next x s
    rw [exec, execLdVxK, ht]; simp [dataLength]
  | _ => exact ⟨nofun, fun h => by simp [dataLength] at h⟩

end Sys2Proof.Machine
end

section
/-! What every step keeps: the invariant (`State.Inv`), the parameters, and the key flags outside the input collaborator's
moves. -/

namespace Sys2Proof.Machine

/-! ### The invariant under updates of other fields -/

section Invariant

variable {s t : State}

/-- The invariant looks at `pc`, memory, stack, key wait, latch and parameters alone. -/
theorem State.Inv.congr (h : s.Inv) (hpc : t.pc = s.pc) (hm : t.memory = s.memory) (hst : t.stack = s.stack)
    (ha : t.awaitingKey = s.awaitingKey) (hf : t.fault = s.fault) (hc : t.cfg = s.cfg) : t.Inv := by
  have hfetch : t.fetchWord = s.fetchWord := by
    simp only [State.fetchWord, State.inMemory, State.byteAt, hpc, hm, hc]
  obtain ⟨h1, h2, h3, h4, h5, h6, h7⟩ := h
  constructor <;> simpa only [hfetch, hm, hst, ha, hf, hc]

/-- What is left to show of a state with no fault latched and the same parameters. -/
theorem State.Inv.of_unlatched (h : s.Inv) (hc : t.cfg = s.cfg) (hf : t.fault = none) (hwf : Memory.wf t.memory)
    (hin : Memory.inside t.memory s.cfg.memSize) (hst : ∀ n, s.cfg.stackDepth = some n → t.stack.length ≤ n)
    (ha : ∀ x, t.awaitingKey = some x → ∃ w, t.fetchWord = .ok w ∧ decode w = .instr (.ldVxK x)) : t.Inv where
  cfg_wf := hc ▸ h.cfg_wf
  memory_wf := hwf
  memory_inside := hc ▸ hin
  stack_bounded := hc ▸ hst
  latched_only_when_halting := fun hne => absurd hf hne
  latched_awaits_nothing := fun hne => absurd hf hne
  awaits_at_key_wait := ha

/-- A machine that awaits a key has no fault latched. -/
theorem State.Inv.fault_of_awaiting (h : s.Inv) {x : Reg} (ha : s.awaitingKey = some x) : s.fault = none := by
  by_contra hf
  rw [h.latched_awaits_nothing hf] at ha; cases ha

/-! ### The invariant under a cycle of the CORE -/

/-- A block stored below `MEM_SIZE` keeps memory canonical and inside. -/
theorem exec_keeps_memory {i : Instr} (h : s.Inv) (he : exec i s = .next t) :
    Memory.wf t.memory ∧ Memory.inside t.memory s.cfg.memSize := by
  obtain ⟨bs, -, hfit, hm⟩ := exec_memory he
  rw [hm]
  refine ⟨Memory.writeList_wf h.memory_wf _ _, ?_⟩
  rcases hfit with hnil | hfit
  · rw [List.length_eq_zero_iff.1 hnil]; exact h.memory_inside
  · exact Memory.writeList_inside h.memory_inside hfit

/-- CALL pushes where there is room, RET shortens the stack, and nothing else touches it. -/
theorem exec_keeps_stack_bound {i : Instr} (h : s.Inv) (he : exec i s = .next t) (n : Nat)
    (hn : s.cfg.stackDepth = some n) : t.stack.length ≤ n := by
  have hs := h.stack_bounded n hn
  by_cases hcall : ∃ nnn, i = .call nnn
  · obtain ⟨nnn, rfl⟩ := hcall
    obtain ⟨hroom, rfl⟩ := execCall_next he
    rw [hn, ne_eq, Option.some.injEq] at hroom
    simp only [State.setPc_stack, State.setStack_stack, List.length_append, List.length_singleton]
    omega
  by_cases hret : i = .ret
  · subst hret
    obtain ⟨ws, a, hws, rfl⟩ := execRet_next he
    rw [hws, List.length_append] at hs
    exact (Nat.le_add_right _ _).trans hs
  rw [(exec_units he).stack (not_exists.1 hcall) hret]
  exact hs

/-- A poll awaits the key at the same FX0A, or ends the wait. -/
theorem pollKeys_keeps_inv {x : Reg} {w : Word} (h : s.Inv) (hf : s.fault = none) (hw : s.fetchWord = .ok w)
    (hd : decode w = .instr (.ldVxK x)) (hp : pollKeys x s = .next t) : t.Inv := by
  rcases pollKeys_next hp with ⟨-, rfl⟩ | ⟨_, -, rfl | rfl⟩
  · exact h.of_unlatched rfl hf h.memory_wf h.memory_inside h.stack_bounded fun y hy => by cases hy; exact ⟨w, hw, hd⟩
  · exact h.of_unlatched rfl hf h.memory_wf h.memory_inside h.stack_bounded nofun
  · exact h.of_unlatched rfl hf h.memory_wf h.memory_inside h.stack_bounded nofun

theorem exec_keeps_inv {i : Instr} {w : Word} (h : s.Inv) (hf : s.fault = none) (ha : s.awaitingKey = none)
    (hw : s.fetchWord = .ok w) (hd : decode w = .instr i) (he : exec i s = .next t) : t.Inv := by
  by_cases hk : ∃ x, i = .ldVxK x
  · obtain ⟨x, rfl⟩ := hk
    exact pollKeys_keeps_inv h hf hw hd he
  have hu := exec_units he
  obtain ⟨hwf, hin⟩ := exec_keeps_memory h he
  refine h.of_unlatched hu.cfg (hu.fault.trans hf) hwf hin (exec_keeps_stack_bound h he) fun x hx => ?_
  rw [hu.awaitingKey (not_exists.1 hk), ha] at hx; cases hx

/-- A halting driver latches the fault of a machine that awaits nothing; the others move `pc` or nothing. -/
theorem takeFault_keeps_inv (h : s.Inv) (hf : s.fault = none) (ha : s.awaitingKey = none) (f : Fault) :
    (s.takeFault f).Inv := by
  rcases s.takeFault_cases f with ⟨hp, he⟩ | ⟨-, he⟩ | ⟨-, he⟩ <;> rw [he]
  · obtain ⟨hcfg, hwf, hin, hst, -, -, hwait⟩ := h
    exact ⟨hcfg, hwf, hin, hst, fun _ => hp, fun _ => ha, hwait⟩
  · exact h.of_unlatched rfl hf h.memory_wf h.memory_inside h.stack_bounded fun x hx => by cases ha.symm.trans hx
  · exact h

theorem coreCycle_keeps_inv (h : s.Inv) (hf : s.fault = none) (hc : coreCycle s = .next t) : t.Inv := by
  rcases coreCycle_cases hc with ⟨x, hx, hp⟩ | ⟨ha, ht | ⟨f, -, rfl⟩⟩
  · obtain ⟨w, hw, hd⟩ := h.awaits_at_key_wait x hx
    exact pollKeys_keeps_inv h hf hw hd hp
  · obtain ⟨w, i, hw, hd, he⟩ := transition_next ht
    exact exec_keeps_inv h hf ha hw hd he
  · exact takeFault_keeps_inv h hf ha f

/-! ### The invariant at the start of a session -/

/-- A launch that fits starts in the invariant. -/
theorem boot_inv {l : Launch} (hc : s.cfg.wf) (hl : l.fits s.cfg.memSize) : (s.boot l).Inv where
  cfg_wf := hc
  memory_wf := l.memory_wf
  memory_inside := Launch.memory_inside hl
  stack_bounded := fun _ _ => Nat.zero_le _
  latched_only_when_halting := fun hne => absurd rfl hne
  latched_awaits_nothing := fun _ => rfl
  awaits_at_key_wait := nofun

end Invariant

/-- Settles O13: the parameters of reset are in range, its memory is the empty list, and nothing is latched or awaited. -/
theorem resetMeetsTheInvariant : Obligations.ResetMeetsTheInvariant where
  cfg_wf := by decide
  memory_wf := State.reset_memory_wf
  memory_inside := nofun
  stack_bounded := nofun
  latched_only_when_halting := fun hne => absurd rfl hne
  latched_awaits_nothing := fun _ => rfl
  awaits_at_key_wait := nofun

/-- Settles O12: a load starts in the invariant, a tick and a key event write nothing it looks at, and a cycle keeps it. -/
theorem stepKeepsTheInvariant : Obligations.StepKeepsTheInvariant := by
  intro s t h hstep
  have hsched : ∀ es, (s.setSchedule es).Inv := fun _ => h.congr rfl rfl rfl rfl rfl rfl
  rcases step_cases hstep with ⟨l, es, -, hl, rfl⟩ | ⟨hf, ⟨es, -, rfl⟩ | ⟨k, p, es, -, rfl⟩ | ⟨es, -, hc⟩ | ⟨-, hc⟩⟩
  · exact boot_inv h.cfg_wf hl
  · exact (hsched es).congr rfl rfl rfl rfl rfl rfl
  · exact (hsched es).congr rfl rfl rfl rfl rfl rfl
  · exact coreCycle_keeps_inv (hsched es) hf hc
  · exact coreCycle_keeps_inv h hf hc

/-! ### Parameters, schedule and key flags -/

/-- A cycle of the CORE writes no parameter, no move to come and no key flag. -/
theorem coreCycle_keeps {s t : State} (h : coreCycle s = .next t) :
    t.cfg = s.cfg ∧ t.schedule = s.schedule ∧ t.key = s.key := by
  rcases coreCycle_cases h with ⟨x, -, hp⟩ | ⟨-, ht | ⟨f, -, rfl⟩⟩
  · have hu := exec_units (i := .ldVxK x) hp
    exact ⟨hu.cfg, hu.schedule, hu.key⟩
  · obtain ⟨w, i, -, -, he⟩ := transition_next ht
    have hu := exec_units he
    exact ⟨hu.cfg, hu.schedule, hu.key⟩
  · rcases s.takeFault_cases f with ⟨-, he⟩ | ⟨-, he⟩ | ⟨-, he⟩ <;> rw [he] <;> exact ⟨rfl, rfl, rfl⟩

/-- Settles O14: move by move; a key event alone writes the key flags. -/
theorem stepsKeepParametersAndKeys : Obligations.StepsKeepParametersAndKeys := by
  intro s t h
  rcases step_cases h with ⟨l, es, hs, -, rfl⟩ | ⟨-, ⟨es, hs, rfl⟩ | ⟨k, p, es, hs, rfl⟩ | ⟨es, hs, hc⟩ | ⟨hs, hc⟩⟩
  · rw [hs]; exact ⟨rfl, rfl, fun _ => rfl⟩
  · rw [hs]; exact ⟨rfl, rfl, fun _ => rfl⟩
  · exact ⟨rfl, by rw [hs]; rfl, fun hno => absurd hs (hno k p es)⟩
  · obtain ⟨hcfg, hsched, hkey⟩ := coreCycle_keeps hc
    exact ⟨hcfg, by rw [hs]; exact hsched, fun _ => hkey⟩
  · obtain ⟨hcfg, hsched, hkey⟩ := coreCycle_keeps hc
    exact ⟨hcfg, by rw [hsched, hs]; rfl, fun _ => hkey⟩

end Sys2Proof.Machine
end

section
/-! Memory (20_memory.md, 44_index_memory.md): the canonical form is unique, and what FX33, FX55 and FX65 store and load. -/

namespace Sys2Proof.Machine

/-! ### The canonical form -/

theorem Memory.read_cons_self (a : Nat) (b : Byte) (m : Memory) : Memory.read ((a, b) :: m) a = b := if_pos rfl

theorem Memory.read_cons_of_ne {a c : Nat} (h : c ≠ a) (b : Byte) (m : Memory) : Memory.read ((a, b) :: m) c = m.read c :=
  if_neg h

/-- The first address of a canonical memory is below the others. -/
theorem Memory.wf_head {a : Nat} {b : Byte} {m : Memory} (h : Memory.wf ((a, b) :: m)) :
    b ≠ unlistedByte a ∧ ∀ c ∈ m, a < c.1 :=
  ⟨h.2 _ List.mem_cons_self, (List.pairwise_cons.1 h.1).1⟩

/-- A canonical memory whose addresses are all above `a` does not read like one that lists `a` first. -/
theorem Memory.read_ne_of_lt {a : Nat} {b : Byte} {m n : Memory} (hm : Memory.wf ((a, b) :: m)) (hn : ∀ c ∈ n, a < c.1) :
    Memory.read ((a, b) :: m) a ≠ n.read a := by
  rw [Memory.read_cons_self, Memory.read_of_lt hn]
  exact (Memory.wf_head hm).1

theorem Memory.lt_of_mem_cons {a k : Nat} {b : Byte} {n : Memory} (hn : Memory.wf ((k, b) :: n)) (h : a < k) :
    ∀ c ∈ ((k, b) :: n : Memory), a < c.1 := by
  intro c hc
  rcases List.mem_cons.1 hc with rfl | hc
  · exact h
  · exact h.trans ((Memory.wf_head hn).2 c hc)

/-- Canonical memories that read alike list the same first cell, and their rests read alike. -/
theorem Memory.eq_of_read_eq {m n : Memory} (hm : Memory.wf m) (hn : Memory.wf n) (h : ∀ a, m.read a = n.read a) : m = n := by
  induction m generalizing n with
  | nil =>
    cases n with
    | nil => rfl
    | cons c n => exact absurd (h c.1).symm (Memory.read_ne_of_lt hn nofun)
  | cons c m ih =>
    cases n with
    | nil => exact absurd (h c.1) (Memory.read_ne_of_lt hm nofun)
    | cons d n =>
      obtain ⟨a, b⟩ := c
      obtain ⟨k, e⟩ := d
      rcases Nat.lt_trichotomy a k with hlt | rfl | hlt
      · exact absurd (h a) (Memory.read_ne_of_lt hm (Memory.lt_of_mem_cons hn hlt))
      · have hb : b = e := by simpa only [Memory.read_cons_self] using h a
        have hrest : ∀ c, Memory.read m c = Memory.read n c := fun c => by
          by_cases hc : c = a
          · rw [hc, Memory.read_of_lt (Memory.wf_head hm).2, Memory.read_of_lt (Memory.wf_head hn).2]
          · simpa only [Memory.read_cons_of_ne hc] using h c
        rw [hb, ih (Memory.wf_tail hm) (Memory.wf_tail hn) hrest]
      · exact absurd (h k).symm (Memory.read_ne_of_lt hn (Memory.lt_of_mem_cons hm hlt))

/-- Settles O22: by induction on the cells. -/
theorem canonicalMemoriesReadingAlikeAreEqual : Obligations.CanonicalMemoriesReadingAlikeAreEqual :=
  fun _ _ => Memory.eq_of_read_eq

/-! ### The memory instructions where the block fits, and where it does not -/

theorem orFault_of_ok {α : Type} {r : Except Fault α} {a : α} (h : r = .ok a) (k : α → Result) : orFault r k = k a := by
  subst h; rfl

section Blocks

variable (s : State) (x : Reg)

theorem execLdB_of_fits (h : s.i.toNat + 3 ≤ s.cfg.memSize) :
    exec (.ldB x) s = .next (s.setMemory (s.memory.writeList s.i.toNat (bcdDigits (s.readV x)))).advance :=
  orFault_of_ok (s.inMemory_ok _ (.inr h)) _

theorem execLdMemVx_of_fits (h : s.i.toNat + (x.val + 1) ≤ s.cfg.memSize) :
    exec (.ldMemVx x) s = .next (s.setMemory (s.memory.writeList s.i.toNat (s.readVs x))).advance :=
  orFault_of_ok (s.inMemory_ok _ (.inr ((s.readVs_length x).symm ▸ h))) _

theorem execLdVxMem_of_fits (h : s.i.toNat + (x.val + 1) ≤ s.cfg.memSize) :
    exec (.ldVxMem x) s = .next (s.writeVs (s.dataBytes (x.val + 1))).advance :=
  orFault_of_ok (s.inMemory_ok _ (.inr h)) _

/-- A memory instruction whose block does not fit. -/
theorem exec_of_not_fits {i : Instr} (h0 : 0 < dataLength i) (h : s.cfg.memSize < s.i.toNat + dataLength i) :
    exec i s = .fault (.memoryAccessFault (max s.i.toNat s.cfg.memSize)) :=
  ((transitionsFaultExactlyWhereStated i s).2 _).2 (.inr (.inr (.inl ⟨h0, h, rfl⟩)))

/-- Writing memory and going on changes nothing else but `pc`. -/
theorem onlyRegs_setMemory_advance (m : Memory) : OnlyRegs [] (s.setMemory m) (s.setMemory m).advance := onlyRegs_setPc _ _

/-- The block stored at I is read back, byte by byte. -/
theorem byteAt_stored_block (hwf : Memory.wf s.memory) {bs : List Byte} {k : Nat} {b : Byte} (hk : bs[k]? = some b) :
    (s.setMemory (s.memory.writeList s.i.toNat bs)).advance.byteAt (s.i.toNat + k) = b := by
  obtain ⟨hlt, rfl⟩ := List.getElem?_eq_some_iff.1 hk
  exact Memory.read_writeList_inside hwf hlt

theorem byteAt_stored_block_toNat (hwf : Memory.wf s.memory) {bs : List Byte} {k n : Nat}
    (hk : bs[k]? = some (BitVec.ofNat 8 n)) (hn : n < 256) :
    ((s.setMemory (s.memory.writeList s.i.toNat bs)).advance.byteAt (s.i.toNat + k)).toNat = n := by
  rw [byteAt_stored_block s hwf hk, BitVec.toNat_ofNat]
  exact Nat.mod_eq_of_lt hn

theorem keepsMemoryBut_stored_block (hwf : Memory.wf s.memory) {bs : List Byte} {n : Nat} (hn : bs.length = n) :
    KeepsMemoryBut s.i.toNat n s (s.setMemory (s.memory.writeList s.i.toNat bs)).advance :=
  fun _ ha => Memory.read_writeList_outside hwf (hn ▸ ha)

end Blocks

/-! ### The statements -/

/-- Settles O41: the digits are the block stored at I, each below 256. -/
theorem bcdStoresThreeDigits : Obligations.BcdStoresThreeDigits := by
  refine fun x => ⟨decode_row_or_operands (i := .ldB x) rfl, fun s => ⟨fun hwf hfit => ?_, fun hfit => ?_⟩⟩
  · have hv := (s.readV x).isLt
    exact ⟨_, execLdB_of_fits s x hfit, byteAt_stored_block_toNat s hwf (k := 0) rfl (by omega),
      byteAt_stored_block_toNat s hwf (k := 1) rfl (by omega), byteAt_stored_block_toNat s hwf (k := 2) rfl (by omega),
      keepsMemoryBut_stored_block s hwf rfl, pcPlus_two_advance rfl, onlyRegs_setMemory_advance s _⟩
  · exact exec_of_not_fits s (i := .ldB x) (Nat.zero_lt_succ _) (Nat.lt_succ_of_le hfit)

/-- Settles O42: the registers `V0..Vx` are the block stored at I. -/
theorem blockStoreWritesTheRegisters : Obligations.BlockStoreWritesTheRegisters := by
  refine fun x => ⟨decode_row_or_operands (i := .ldMemVx x) rfl, fun s => ⟨fun hwf hfit => ?_, fun hfit => ?_⟩⟩
  · exact ⟨_, execLdMemVx_of_fits s x hfit, fun k hk => byteAt_stored_block s hwf (s.readVs_getElem x k hk),
      keepsMemoryBut_stored_block s hwf (s.readVs_length x), pcPlus_two_advance rfl, onlyRegs_setMemory_advance s _⟩
  · exact exec_of_not_fits s (i := .ldMemVx x) (Nat.zero_lt_succ _) (Nat.lt_succ_of_le hfit)

/-- Settles O43: the bytes from I on are loaded up to `Vx`, and no register above it. -/
theorem blockLoadReadsTheRegisters : Obligations.BlockLoadReadsTheRegisters := by
  refine fun x => ⟨decode_row_or_operands (i := .ldVxMem x) rfl, fun s => ⟨fun hfit => ?_, fun hfit => ?_⟩⟩
  · exact ⟨_, execLdVxMem_of_fits s x hfit, fun k hk => s.writeVs_dataBytes_readV_of_ge (Nat.lt_succ_of_le hk),
      fun k hk => s.writeVs_dataBytes_readV_of_lt hk, pcPlus_two_advance rfl, fun k hk => absurd (List.mem_finRange k) hk,
      rfl, fun _ => rfl, ⟨rfl, rfl, rfl, rfl⟩, ⟨rfl, rfl, rfl, rfl, rfl⟩, rfl, rfl, rfl⟩
  · exact exec_of_not_fits s (i := .ldVxMem x) (Nat.zero_lt_succ _) (Nat.lt_succ_of_le hfit)

/-- Settles O44: FX65 reads the addresses FX55 has checked and stored. -/
theorem blockStoreThenLoadRestores : Obligations.BlockStoreThenLoadRestores := by
  intro s t u x hwf h hm hi hc
  obtain ⟨hfit, rfl⟩ := execLdMemVx_next h
  have hfit' : u.i.toNat + (x.val + 1) ≤ u.cfg.memSize := by rw [hi, hc]; exact hfit
  refine ⟨_, execLdVxMem_of_fits u x hfit', fun k hk => ?_⟩
  calc (u.writeVs (u.dataBytes (x.val + 1))).advance.readV k
      = u.byteAt (u.i.toNat + k.val) := u.writeVs_dataBytes_readV_of_ge (Nat.lt_succ_of_le hk)
    _ = (s.setMemory (s.memory.writeList s.i.toNat (s.readVs x))).advance.byteAt (s.i.toNat + k.val) := by
        rw [State.byteAt, hm, hi]; rfl
    _ = s.readV k := byteAt_stored_block s hwf (s.readVs_getElem x k hk)

/-- Settles O45: the fetch reads the two addresses at `pc`, which FX55 has checked and stored. -/
theorem storedWordIsFetchedNext : Obligations.StoredWordIsFetchedNext := by
  intro s t x j k hwf h hk hkx hpc
  obtain ⟨hfit, rfl⟩ := execLdMemVx_next h
  have hkx' : k.val ≤ x.val := hkx
  have hjx : j ≤ x := Fin.le_def.2 (by omega)
  have hlt : (s.pc + 2).toNat + 1 < s.cfg.memSize := by
    rw [State.advance_pc, State.setMemory_pc] at hpc
    omega
  rw [State.fetchWord_of_lt hlt, hpc, Nat.add_assoc, ← hk, byteAt_stored_block s hwf (s.readVs_getElem x j hjx),
    byteAt_stored_block s hwf (s.readVs_getElem x k hkx)]

end Sys2Proof.Machine
end

section
/-! The call stack and the end of a run (40_control_transfer.md, 70_reset_and_hazards.md R271): RET and CALL, the pair of
them, and the self-jump. -/

namespace Sys2Proof.Machine

/-! ### RET and CALL -/

theorem execRet_of_stack {s : State} {ws : List Word} {a : Word} (h : s.stack = ws ++ [a]) :
    exec .ret s = .next ((s.setStack ws).setPc (a + 2)) :=
  orFault_of_ok (State.pop_ok h) _

theorem execCall_of_room {s : State} (nnn : Imm12) (h : s.cfg.stackDepth ≠ some s.stack.length) :
    exec (.call nnn) s = .next ((s.setStack (s.stack ++ [s.pc])).setPc (zextNNN nnn)) :=
  orFault_of_ok (s.push_ok s.pc h) _

/-- Settles O23: on a stack that ends in `a` the pop answers `a`; the empty stack is where RET faults. -/
theorem retPopsAndGoesPastTheCall : Obligations.RetPopsAndGoesPastTheCall := by
  refine ⟨by decide, fun s => ⟨fun ws a h => ⟨_, execRet_of_stack h, BitVec.toNat_add _ _, onlyRegs_setPc _ _⟩, fun h => ?_⟩⟩
  exact execRet_fault_iff.2 ⟨h, rfl⟩

/-- Settles O26: where there is room the push appends `pc`; the full stack is where CALL faults. -/
theorem callPushesItsOwnAddress : Obligations.CallPushesItsOwnAddress := by
  refine fun nnn => ⟨decode_row_or_operands (i := .call nnn) rfl, fun s => ⟨fun h => ?_, fun h => ?_⟩⟩
  · exact ⟨_, execCall_of_room nnn h, zextNNN_toNat nnn, onlyRegs_setPc _ _⟩
  · exact execCall_fault_iff.2 ⟨h, rfl⟩

/-- Settles O28: the CALL appends its address and RET takes it off again; the two steps fetch the CALL at `pc` and the RET at
`NNN`. -/
theorem callThenRetResumesAfterTheCall : Obligations.CallThenRetResumesAfterTheCall := by
  refine ⟨fun s t u nnn h hu => ?_, fun s nnn hf ha hs hroom hw hfit hhi hlo => ?_⟩
  · obtain ⟨-, rfl⟩ := execCall_next h
    exact ⟨_, execRet_of_stack hu, BitVec.toNat_add _ _, rfl⟩
  · have hcall := step_of_exec_next hf ha hs hw (decode_encode (i := .call nnn) rfl) (execCall_of_room nnn hroom)
    have hpc : (zextNNN nnn).toNat = nnn.toNat := zextNNN_toNat nnn
    have hfetch : ((s.setStack (s.stack ++ [s.pc])).setPc (zextNNN nnn)).fetchWord = .ok 0x00EE := by
      refine (State.fetchWord_of_lt (hpc.symm ▸ hfit)).trans (congrArg Except.ok ?_)
      rw [State.setPc_pc, hpc, State.setPc_byteAt, State.setPc_byteAt, State.setStack_byteAt, State.setStack_byteAt, hhi, hlo]
      rfl
    have hret := step_of_exec_next (s := (s.setStack (s.stack ++ [s.pc])).setPc (zextNNN nnn)) hf ha hs hfetch
      retPopsAndGoesPastTheCall.1 (execRet_of_stack rfl)
    exact ⟨_, _, hcall, hret, BitVec.toNat_add _ _, onlyRegs_setPc s _⟩

/-! ### The self-jump -/

/-- JP to the address in `pc`, below 4096 so that 12 bits hold it, changes nothing. -/
theorem execJp_self {s : State} (h : s.pc.toNat < 4096) : exec (.jp (s.pc.setWidth 12)) s = .next s := by
  refine ((jpLoadsPc _).2 s).2 ?_
  rw [BitVec.toNat_setWidth, Nat.mod_eq_of_lt h]

/-- Settles O57: the step of a finished machine runs its self-jump and answers the same state. -/
theorem selfJumpIsAFixedPoint : Obligations.SelfJumpIsAFixedPoint := by
  rintro s n ⟨hw, hpc, hf, ha, hs⟩
  exact run_of_step_self (step_of_exec_next hf ha hs hw (decode_encode rfl) (execJp_self hpc)) n

end Sys2Proof.Machine
end

section
/-! Registers and flags (41_skips.md, 42_register_immediate.md, 43_alu.md, 44_index_memory.md): the key skips, RND, the logic
instructions and the shifts, and the arithmetic of I. -/

namespace Sys2Proof.Machine

/-! ### Nibble operands -/

theorem nibbleOperand_of_in_range {p : RangePolicy} {v : Byte} (h : p = .mask4 ∨ v.toNat ≤ 15) :
    nibbleOperand p v = .ok (lowNibble v) := by
  rcases nibbleOperand_cases p v with ⟨hok, -⟩ | ⟨-, hp, hv⟩
  · exact hok
  · subst hp
    rcases h with h | h
    · cases h
    · omega

theorem pcPlus_skipIf_not (s : State) (c : Bool) : PcPlus (if c then 2 else 4) s (s.skipIf !c) := by
  cases c <;> exact BitVec.toNat_add _ _

/-- Settles O30: in range the key tested is the low nibble, and both skips are `skipIf` on its flag; out of range both fault.
-/
theorem skipsOnAKeyTestTheLowNibble : Obligations.SkipsOnAKeyTestTheLowNibble := by
  refine fun x => ⟨decode_row_or_operands (i := .skp x) rfl, decode_row_or_operands (i := .sknp x) rfl, fun s =>
    ⟨fun hr k hk => ?_, fun hp hv => ?_⟩⟩
  case refine_2 =>
    exact ⟨orFault_nibbleOperand_fault_iff.2 ⟨hp, hv, rfl⟩, orFault_nibbleOperand_fault_iff.2 ⟨hp, hv, rfl⟩⟩
  have hop : s.keyOperand x = .ok k := by
    rw [show k = lowNibble (s.readV x) from Fin.ext (hk.trans (lowNibble_val _).symm)]
    exact nibbleOperand_of_in_range hr
  exact ⟨⟨_, orFault_of_ok hop _, pcPlus_skipIf s _, onlyRegs_skipIf s _⟩,
    ⟨_, orFault_of_ok hop _, pcPlus_skipIf_not s _, onlyRegs_skipIf s _⟩⟩

/-- Settles O40: in range I becomes the glyph's address, 5 times the low nibble; out of range FX29 faults. -/
theorem loadGlyphAddressesTheFont : Obligations.LoadGlyphAddressesTheFont := by
  refine fun x => ⟨decode_row_or_operands (i := .ldF x) rfl, fun s =>
    ⟨fun hr => ⟨_, orFault_of_ok (nibbleOperand_of_in_range hr) _, ?_, pcPlus_two_advance rfl, onlyRegs_setPc _ _⟩,
      fun hp hv => orFault_nibbleOperand_fault_iff.2 ⟨hp, hv, rfl⟩⟩⟩
  have hlow := lowNibble_val (s.readV x)
  rw [State.advance_i, State.setI_i, glyphAddress, BitVec.toNat_ofNat, hlow, fontBase, glyphBytes]
  omega

/-! ### RND -/

/-- A masked byte has no bit outside the mask. -/
theorem and_mask_and_not (r nn : Byte) : r &&& nn &&& ~~~nn = 0 := by
  rw [BitVec.and_assoc, BitVec.and_not_self]; exact BitVec.and_zero

/-- Settles O32: RND writes one register of the state with one byte used up. -/
theorem randomByteIsMasked : Obligations.RandomByteIsMasked := by
  refine fun x nn => ⟨?_, fun s => ⟨_, rfl, ?_, ?_, fun r rest h => ⟨?_, ?_⟩, pcPlus_two_advance rfl,
    onlyRegs_writeV_advance s.useRand x _⟩⟩
  · rw [BitVec.or_assoc]; exact decode_row_or_operands (i := .rnd x nn) rfl
  · exact State.readV_writeV_advance_same _ _ _
  · rw [State.readV_writeV_advance_same]; exact and_mask_and_not _ _
  · rw [State.readV_writeV_advance_same, State.rand8, h]; rfl
  · rw [State.advance_randIn, State.writeV_randIn, State.useRand_randIn, h]; rfl

/-! ### Logic -/

/-- Settles O34: each instruction writes one register and goes on, and the bits of the result are those of the bit function.
-/
theorem logicIsBitwiseAndWritesNoFlag : Obligations.LogicIsBitwiseAndWritesNoFlag := by
  refine fun x y => ⟨?_, ?_, ?_, fun s =>
    ⟨⟨_, rfl, pcPlus_two_advance rfl, onlyRegs_writeV_advance s x _, fun k _ => ?_⟩,
      ⟨_, rfl, pcPlus_two_advance rfl, onlyRegs_writeV_advance s x _, fun k _ => ?_⟩,
      ⟨_, rfl, pcPlus_two_advance rfl, onlyRegs_writeV_advance s x _, fun k _ => ?_⟩⟩⟩
  · rw [BitVec.or_assoc]; exact decode_row_or_operands (i := .orReg x y) rfl
  · rw [BitVec.or_assoc]; exact decode_row_or_operands (i := .andReg x y) rfl
  · rw [BitVec.or_assoc]; exact decode_row_or_operands (i := .xorReg x y) rfl
  · rw [State.readV_writeV_advance_same]; exact BitVec.getLsbD_or
  · rw [State.readV_writeV_advance_same]; exact BitVec.getLsbD_and
  · rw [State.readV_writeV_advance_same]; exact BitVec.getLsbD_xor

/-! ### Shifts -/

theorem shiftRightFlag_toNat (a : Byte) : (shiftRightFlag a).toNat = a.toNat % 2 := by
  rw [shiftRightFlag, BitVec.toNat_and]; exact Nat.and_one_is_mod _

/-- The flag of SHL is bit 7 in place (43_alu.md R168). -/
theorem shiftLeftFlag_toNat (a : Byte) : (shiftLeftFlag a).toNat = if 128 ≤ a.toNat then 128 else 0 := by
  revert a; decide

/-- The result is written last, so it stays whatever the destination (43_alu.md R172). -/
theorem State.flagThenResult_readV_dest (s : State) (x : Reg) (f r : Byte) : (s.flagThenResult x f r).readV x = r :=
  State.readV_writeV_advance_same _ _ _

theorem State.flagThenResult_readV_VF (s : State) {x : Reg} (hx : x ≠ VF) (f r : Byte) :
    (s.flagThenResult x f r).readV VF = f := by
  rw [State.flagThenResult, State.advance_readV, State.writeV_readV, if_neg hx.symm, State.writeV_readV, if_pos rfl]

/-- Settles O37: the flag is written first, so that the shifted value stays with `X = F`. -/
theorem shiftsWriteTheBitOutThenTheResult : Obligations.ShiftsWriteTheBitOutThenTheResult := by
  refine fun x y => ⟨?_, ?_, ?_⟩
  · rw [BitVec.or_assoc]; exact decode_row_or_operands (i := .shr x y) rfl
  · rw [BitVec.or_assoc]; exact decode_row_or_operands (i := .shl x y) rfl
  rintro s _ rfl
  refine ⟨⟨_, rfl, ?_, fun hx => ?_, pcPlus_two_advance rfl, onlyRegs_flagThenResult s x _ _⟩,
    ⟨_, rfl, ?_, fun hx => ?_, pcPlus_two_advance rfl, onlyRegs_flagThenResult s x _ _⟩⟩
  · rw [State.flagThenResult_readV_dest, BitVec.toNat_ushiftRight, Nat.shiftRight_one]
  · rw [State.flagThenResult_readV_VF s hx, shiftRightFlag_toNat]
  · rw [State.flagThenResult_readV_dest, BitVec.toNat_shiftLeft, Nat.shiftLeft_eq, Nat.pow_one]
  · rw [State.flagThenResult_readV_VF s hx, shiftLeftFlag_toNat]

/-! ### The sum in I -/

/-- Settles O39: FX1E writes the wrapped sum to I and goes on. -/
theorem addIndexWrapsAtSixteenBits : Obligations.AddIndexWrapsAtSixteenBits := by
  refine fun x => ⟨decode_row_or_operands (i := .addI x) rfl, fun s =>
    ⟨(s.setI (s.i + zextByte (s.readV x))).advance, rfl, ?_, pcPlus_two_advance rfl, onlyRegs_setPc _ _⟩⟩
  rw [State.advance_i, State.setI_i, BitVec.toNat_add, zextByte_toNat]

end Sys2Proof.Machine
end

section
/-! DRW (45_display_timer_key.md R211): the drawing loop against the set of cells a sprite covers. A sprite has at most 15
rows of 8 columns, so that no two of its pixels wrap to one cell; every covered cell is then flipped once, and hit or not by
what it held before. -/

namespace Sys2Proof.Machine

/-! ### The cells of a display -/

/-- Displays with the same cells are the same display. -/
theorem Display.ext_cell {d e : Display} (h : ∀ p, Display.cell d p = Display.cell e p) : d = e := by
  apply Vector.ext
  intro y hy
  apply BitVec.eq_of_getLsbD_eq
  intro x hx
  exact h ⟨⟨x, hx⟩, ⟨y, hy⟩⟩

/-- A flip inverts its own cell and no other. -/
theorem Display.cell_flip (d : Display) (p q : Pixel) :
    Display.cell (Display.flip d p) q = (Display.cell d q ^^ decide (q = p)) := by
  obtain ⟨px, py⟩ := p
  obtain ⟨qx, qy⟩ := q
  simp only [Display.cell, Display.flip, Pixel.mk.injEq]
  by_cases hy : qy = py
  · subst hy
    simp [Fin.ext_iff, eq_comm]
  · have : py.val ≠ qy.val := fun e => hy (Fin.ext e.symm)
    simp [hy, Vector.getElem_set_ne, this]

theorem any_cell_congr {ps : List Pixel} {f g : Pixel → Bool} (h : ∀ p ∈ ps, f p = g p) : ps.any f = ps.any g := by
  rw [Bool.eq_iff_iff, List.any_eq_true, List.any_eq_true]
  exact exists_congr fun p => and_congr_right fun hp => by rw [h p hp]

/-! ### The loop -/

/-- The loop over cells that are all different flips each of them once, and notes a hit where one of them was 1. -/
theorem foldl_drawPixel {ps : List Pixel} (hnd : ps.Nodup) (a : Display × Bool) :
    (∀ q, Display.cell (ps.foldl drawPixel a).1 q = (Display.cell a.1 q ^^ decide (q ∈ ps))) ∧
      (ps.foldl drawPixel a).2 = (a.2 || ps.any (Display.cell a.1)) := by
  induction ps generalizing a with
  | nil => simp
  | cons p ps ih =>
    obtain ⟨hp, hnd⟩ := List.nodup_cons.1 hnd
    obtain ⟨hcell, hhit⟩ := ih hnd (drawPixel a p)
    refine ⟨fun q => ?_, ?_⟩
    · rw [List.foldl_cons, hcell, drawPixel, Display.cell_flip]
      by_cases hq : q = p
      · subst hq; simp [hp]
      · simp [hq]
    · have hrest : ps.any (Display.cell (Display.flip a.1 p)) = ps.any (Display.cell a.1) :=
        any_cell_congr fun q hq => by
          rw [Display.cell_flip, decide_eq_false (ne_of_mem_of_not_mem hq hp), Bool.xor_false]
      rw [List.foldl_cons, hhit, drawPixel, hrest, List.any_cons, Bool.or_assoc]

/-! ### The cells a sprite covers -/

theorem mem_rowPixels {x0 y0 b : Byte} {r : Nat} {q : Pixel} :
    q ∈ rowPixels x0 y0 r b ↔ ∃ c < 8, spriteBit b c = true ∧ spritePixel x0 y0 r c = q := by
  simp [rowPixels, and_assoc]

theorem mem_spritePixels {x0 y0 : Byte} {r : Nat} {bs : List Byte} {q : Pixel} :
    q ∈ spritePixels x0 y0 r bs ↔ ∃ k b, bs[k]? = some b ∧ q ∈ rowPixels x0 y0 (r + k) b := by
  induction bs generalizing r with
  | nil => simp [spritePixels]
  | cons b bs ih =>
    rw [spritePixels, List.mem_append, ih]
    constructor
    · rintro (h | ⟨k, c, hk, h⟩)
      · exact ⟨0, b, rfl, h⟩
      · exact ⟨k + 1, c, hk, by rwa [Nat.add_assoc, Nat.add_comm 1] at h⟩
    · rintro ⟨_ | k, c, hk, h⟩
      · cases hk; exact .inl h
      · exact .inr ⟨k, c, hk, by rwa [Nat.add_assoc, Nat.add_comm 1]⟩

theorem rowPixels_row {x0 y0 b : Byte} {r : Nat} {q : Pixel} (h : q ∈ rowPixels x0 y0 r b) : q.y.val = (y0.toNat + r) % 32 := by
  obtain ⟨c, -, -, rfl⟩ := mem_rowPixels.1 h; rfl

theorem rowPixels_nodup (x0 y0 : Byte) (r : Nat) (b : Byte) : (rowPixels x0 y0 r b).Nodup := by
  refine List.Nodup.map_on (fun c hc d hd h => ?_) (List.nodup_range.filter _)
  have hc := List.mem_range.1 (List.mem_of_mem_filter hc)
  have hd := List.mem_range.1 (List.mem_of_mem_filter hd)
  have hx : (x0.toNat + c) % 64 = (x0.toNat + d) % 64 := congrArg (fun q : Pixel => q.x.val) h
  omega

theorem spritePixels_nodup (x0 y0 : Byte) (r : Nat) {bs : List Byte} (h : bs.length ≤ 32) :
    (spritePixels x0 y0 r bs).Nodup := by
  induction bs generalizing r with
  | nil => exact List.nodup_nil
  | cons b bs ih =>
    rw [List.length_cons] at h
    refine List.nodup_append'.2 ⟨rowPixels_nodup x0 y0 r b, ih (r + 1) (by omega), fun q hq hq' => ?_⟩
    obtain ⟨k, c, hk, hrow⟩ := mem_spritePixels.1 hq'
    have hlt := (List.getElem?_eq_some_iff.1 hk).1
    have hy := (rowPixels_row hq).symm.trans (rowPixels_row hrow)
    omega

/-! ### The drawing as a whole -/

section Drawing

variable (s : State) (x y : Reg) (n : Nibble)

/-- The cells that DXYN draws on. -/
def State.spriteCells : List Pixel := spritePixels (s.readV x) (s.readV y) 0 (s.dataBytes n.toNat)

theorem State.spriteCells_nodup : (s.spriteCells x y n).Nodup :=
  spritePixels_nodup _ _ _ (by rw [State.dataBytes_length]; have := n.isLt; omega)

/-- The cells the loop draws on are the covered ones. -/
theorem State.mem_spriteCells (p : Pixel) : p ∈ s.spriteCells x y n ↔ SpriteCovers s x y n p := by
  rw [State.spriteCells, mem_spritePixels]
  constructor
  · rintro ⟨r, b, hb, hp⟩
    obtain ⟨c, hc, hbit, rfl⟩ := mem_rowPixels.1 hp
    have hr : r < n.toNat := by simpa using (List.getElem?_eq_some_iff.1 hb).1
    rw [s.dataBytes_getElem hr] at hb
    cases hb
    exact ⟨r, hr, c, hc, hbit, rfl, by rw [spritePixel, Nat.zero_add]⟩
  · rintro ⟨r, hr, c, hc, hbit, hx, hy⟩
    refine ⟨r, _, s.dataBytes_getElem hr, mem_rowPixels.2 ⟨c, hc, hbit, ?_⟩⟩
    obtain ⟨px, py⟩ := p
    rw [spritePixel, Pixel.mk.injEq, Nat.zero_add]
    exact ⟨Fin.ext hx.symm, Fin.ext hy.symm⟩

theorem State.drawn_cell (p : Pixel) :
    Display.cell (s.drawn x y n).disp p = (Display.cell s.disp p ^^ decide (p ∈ s.spriteCells x y n)) :=
  (foldl_drawPixel (s.spriteCells_nodup x y n) (s.disp, false)).1 p

theorem State.drawn_readV_VF : (s.drawn x y n).readV VF = flagByte ((s.spriteCells x y n).any (Display.cell s.disp)) := by
  rw [State.drawn, State.readV_writeV_advance_same, collisionFlag, drawSprite]
  exact congrArg flagByte ((foldl_drawPixel (s.spriteCells_nodup x y n) (s.disp, false)).2.trans (Bool.false_or _))

theorem execDrw_of_fits (h : n.toNat = 0 ∨ s.i.toNat + n.toNat ≤ s.cfg.memSize) : exec (.drw x y n) s = .next (s.drawn x y n) :=
  orFault_of_ok (s.inMemory_ok _ h) _

end Drawing

theorem flagByte_eq_one_iff (c : Bool) : flagByte c = 1 ↔ c = true := by cases c <;> decide

theorem flagByte_eq_zero_iff (c : Bool) : flagByte c = 0 ↔ c = false := by cases c <;> decide

/-! ### The statements -/

/-- Settles O47: where the rows exist the loop flips the covered cells and no other, and VF says whether one of them was 1. -/
theorem drwXorsExactlyTheSprite : Obligations.DrwXorsExactlyTheSprite := by
  refine fun x y n => ⟨?_, fun s => ⟨fun hfit => ⟨s.drawn x y n, execDrw_of_fits s x y n hfit, fun p hp => ?_, fun p hp => ?_,
    fun ⟨p, hp, hlit⟩ => ?_, fun hdark => ?_, pcPlus_two_advance rfl, onlyRegs_writeV_advance (s.setDisp _) VF _⟩,
    fun h0 h => exec_of_not_fits s (i := .drw x y n) h0 h⟩⟩
  · exact (congrArg decode (or_atX_atY_n 0xD n x y)).trans (decode_encode (i := .drw x y n) rfl)
  · rw [s.drawn_cell, decide_eq_true ((s.mem_spriteCells x y n p).2 hp), Bool.xor_true]
  · rw [s.drawn_cell, decide_eq_false (mt (s.mem_spriteCells x y n p).1 hp), Bool.xor_false]
  · rw [s.drawn_readV_VF, flagByte_eq_one_iff, List.any_eq_true]
    exact ⟨p, (s.mem_spriteCells x y n p).2 hp, hlit⟩
  · rw [s.drawn_readV_VF, flagByte_eq_zero_iff, List.any_eq_false]
    exact fun p hp => Bool.not_eq_true _ ▸ hdark p ((s.mem_spriteCells x y n p).1 hp)

/-- Settles O48: both drawings cover the same cells, so each is flipped twice, and the second drawing hits those the first
lit. -/
theorem drwTwiceRestoresTheDisplay : Obligations.DrwTwiceRestoresTheDisplay := by
  intro s t u x y n ht hx hy hu
  obtain ⟨-, rfl⟩ := execDrw_next ht
  obtain ⟨-, rfl⟩ := execDrw_next hu
  have hcells : (s.drawn x y n).spriteCells x y n = s.spriteCells x y n := by
    rw [State.spriteCells, hx, hy]; rfl
  have hVF : ∀ t : State, (t.drawn x y n).readV VF = 0 ∨ (t.drawn x y n).readV VF = 1 := fun t => by
    rw [t.drawn_readV_VF, flagByte_eq_zero_iff, flagByte_eq_one_iff]
    exact (Bool.eq_false_or_eq_true _).symm
  refine ⟨Display.ext_cell fun p => ?_, ?_, hVF _⟩
  · rw [State.drawn_cell, hcells, State.drawn_cell, Bool.xor_assoc, Bool.xor_self, Bool.xor_false]
  · rw [State.drawn_readV_VF, flagByte_eq_one_iff, hcells, List.any_eq_true]
    refine exists_congr fun p => (and_congr_left' (s.mem_spriteCells x y n p).symm).trans (and_congr_right fun hp => ?_)
    rw [s.drawn_cell, decide_eq_true hp, Bool.xor_true, Bool.not_eq_true']

end Sys2Proof.Machine
end

section
/-! Timers and keys (45_display_timer_key.md, 60_exceptions.md section 5): FX07 and the fall of DT, FX0A and the wait it
starts, and the moves of the tick and of the input collaborator. -/

namespace Sys2Proof.Machine

/-! ### The tick -/

/-- Counting down stops at 0 (93_implementation_defined.md G4). -/
theorem countDown_toNat (b : Byte) : (countDown b).toNat = b.toNat - 1 := by
  unfold countDown
  split
  · next h => subst h; rfl
  · next h =>
    have h1 : 1 ≤ b.toNat := Nat.one_le_iff_ne_zero.2 fun h0 => h (BitVec.eq_of_toNat_eq h0)
    exact BitVec.toNat_sub_of_le h1

/-! ### DT -/

/-- A cycle of the CORE writes DT by an FX15 at `pc` only. -/
theorem coreCycle_dt {s t : State} (h : coreCycle s = .next t) :
    t.dt = s.dt ∨ ∃ w x, s.fetchWord = .ok w ∧ decode w = .instr (.ldDTVx x) := by
  rcases coreCycle_cases h with ⟨x, -, hp⟩ | ⟨-, ht | ⟨f, -, rfl⟩⟩
  · exact .inl ((exec_units (i := .ldVxK x) hp).dt nofun)
  · obtain ⟨w, i, hw, hd, he⟩ := transition_next ht
    by_cases hi : ∃ x, i = .ldDTVx x
    · obtain ⟨x, rfl⟩ := hi
      exact .inr ⟨w, x, hw, hd⟩
    · exact .inl ((exec_units he).dt (not_exists.1 hi))
  · rcases s.takeFault_cases f with ⟨-, he⟩ | ⟨-, he⟩ | ⟨-, he⟩ <;> rw [he] <;> exact .inl rfl

/-- Settles O50: FX07 writes one register; of the moves a load clears DT, a tick lowers it, and a cycle writes it by FX15
only. -/
theorem delayTimerIsReadAndNeverRises : Obligations.DelayTimerIsReadAndNeverRises := by
  refine ⟨fun x => ⟨decode_row_or_operands (i := .ldVxDT x) rfl, fun s =>
    ⟨_, rfl, s.readV_writeV_advance_same x _, pcPlus_two_advance rfl, onlyRegs_writeV_advance s x _⟩⟩, fun s t h hlt => ?_⟩
  rcases step_cases h with ⟨l, es, -, -, rfl⟩ | ⟨-, ⟨es, -, rfl⟩ | ⟨k, p, es, -, rfl⟩ | ⟨es, -, hc⟩ | ⟨-, hc⟩⟩
  · exact absurd hlt (Nat.not_lt_zero _)
  · exact absurd hlt (Nat.not_lt.2 ((countDown_toNat s.dt).trans_le (Nat.sub_le _ _)))
  · exact absurd hlt (Nat.lt_irrefl _)
  · exact (coreCycle_dt hc).resolve_left fun he => absurd hlt (by rw [he]; exact Nat.lt_irrefl _)
  · exact (coreCycle_dt hc).resolve_left fun he => absurd hlt (by rw [he]; exact Nat.lt_irrefl _)

/-! ### The key wait -/

theorem pollKeys_of_noKey (x : Reg) {s : State} (h : ∀ k, s.pressed k = false) :
    pollKeys x s = .next (s.setAwaiting (some x)) := by
  rcases pollKeys_cases x s with ⟨-, hp⟩ | ⟨k, hk, -⟩
  · exact hp
  · rw [h k] at hk; cases hk

theorem key_toNat (k : Fin 16) : (BitVec.ofNat 8 k.val).toNat = k.val := by
  rw [BitVec.toNat_ofNat]; omega

/-- The key taken is in the destination. -/
theorem State.takeKey_readV (s : State) (x : Reg) (k : Fin 16) : ((s.takeKey x k).readV x).toNat = k.val := by
  have h : (s.takeKey x k).readV x = BitVec.ofNat 8 k.val := s.readV_writeV_advance_same x _
  rw [h, key_toNat]

theorem takeKey_keepsRegsBut (s : State) (x : Reg) (k : Fin 16) : KeepsRegsBut [x] s (s.takeKey x k) :=
  (onlyRegs_writeV_advance s x _).1

/-- Every pressed key is taken for some number supplied: any, where it is the only one, else its place among the pressed. -/
theorem exists_pick_takes_key (x : Reg) (s : State) {k : Fin 16} (hk : s.pressed k = true) :
    ∃ n t, pollKeys x { s with pickIn := n :: s.pickIn } = .next t ∧ (t.readV x).toNat = k.val := by
  have hmem := (s.mem_pressedKeys k).2 hk
  obtain ⟨n, hn⟩ := pickFrom_surj hmem
  have hkeys : State.pressedKeys { s with pickIn := n :: s.pickIn } = s.pressedKeys := rfl
  refine ⟨n, ?_⟩
  unfold pollKeys
  rw [hkeys]
  split
  · next h => rw [h] at hmem; cases hmem
  · next j h =>
    rw [h, List.mem_singleton] at hmem
    subst hmem
    exact ⟨_, rfl, State.takeKey_readV _ x k⟩
  · next h =>
    rw [h] at hn
    exact ⟨_, rfl, (State.takeKey_readV _ x _).trans (congrArg Fin.val hn)⟩

/-- Settles O51: a poll waits without a key and takes a pressed one with one; the pick supplied decides which. -/
theorem keyWaitTakesAPressedKey : Obligations.KeyWaitTakesAPressedKey := by
  refine fun x => ⟨decode_row_or_operands (i := .ldVxK x) rfl, fun s =>
    ⟨pollKeys_of_noKey x, fun ⟨j, hj⟩ => ?_, fun k hk => exists_pick_takes_key x s hk⟩⟩
  rcases pollKeys_cases x s with ⟨hno, -⟩ | ⟨k, hk, hp | hp⟩
  · rw [hno j] at hj; cases hj
  · exact ⟨_, k, hp, hk, s.takeKey_readV x k, rfl, pcPlus_two_advance rfl, takeKey_keepsRegsBut s x k, rfl, fun _ => rfl,
      ⟨rfl, rfl, rfl, rfl⟩, rfl, rfl, rfl, rfl, rfl⟩
  · exact ⟨_, k, hp, hk, s.usePick.takeKey_readV x k, rfl, pcPlus_two_advance rfl, takeKey_keepsRegsBut s.usePick x k, rfl,
      fun _ => rfl, ⟨rfl, rfl, rfl, rfl⟩, rfl, rfl, rfl, rfl, rfl⟩

/-- A poll overwrites the key wait, whatever it was. -/
theorem pollKeys_setAwaiting (x : Reg) (s : State) (w : Option Reg) : pollKeys x (s.setAwaiting w) = pollKeys x s := by
  have h : (s.setAwaiting w).pressedKeys = s.pressedKeys := rfl
  unfold pollKeys
  rw [h]
  split <;> rfl

/-- A poll latches no fault. -/
theorem pollKeys_fault {x : Reg} {s t : State} (h : pollKeys x s = .next t) : t.fault = s.fault :=
  (exec_units (i := .ldVxK x) h).fault

/-- Settles O52: by the invariant the word at `pc` is the FX0A that waits, so that fetching again polls the same keys. -/
theorem awaitingCycleEqualsFetchingAgain : Obligations.AwaitingCycleEqualsFetchingAgain := by
  intro s x hinv ha hs
  have hf := hinv.fault_of_awaiting ha
  obtain ⟨w, hw, hd⟩ := hinv.awaits_at_key_wait x ha
  obtain ⟨t, ht⟩ := exists_pollKeys_next x s
  have hpoll : step s = .next t := by rw [step_core hf hs, coreCycle_of_awaiting ha, ht]
  have hagain : step (s.setAwaiting none) = .next t :=
    step_of_exec_next (s := s.setAwaiting none) hf rfl hs hw hd ((pollKeys_setAwaiting x s none).trans ht)
  exact ⟨hpoll.trans hagain.symm, t, hpoll, (pollKeys_fault ht).trans hf⟩

/-- Settles O53: with no key pressed the poll writes the wait that is there already. -/
theorem waitsForEverWithoutAKey : Obligations.WaitsForEverWithoutAKey := by
  intro s x n ha hf hs hno
  have hself : s.setAwaiting (some x) = s := by rw [← ha]; rfl
  refine run_of_step_self ?_ n
  rw [step_core hf hs, coreCycle_of_awaiting ha, pollKeys_of_noKey x hno, hself]

/-! ### The key input -/

/-- A key event sets or clears its own flag and no other. -/
theorem State.inputKey_pressed (s : State) (k j : Fin 16) (p : Bool) :
    (s.inputKey k p).pressed j = if j = k then p else s.pressed j := by
  by_cases h : j = k
  · subst h; cases p <;> simp [State.inputKey, State.pressed]
  · have hv : j.val ≠ k.val := fun e => h (Fin.ext e)
    cases p <;> simp [State.inputKey, State.pressed, h, hv]

/-- Settles O54: the tick and the key event are the updates of their units. -/
theorem ticksAndKeysChangeOnlyTheirUnits : Obligations.TicksAndKeysChangeOnlyTheirUnits := by
  refine fun s es hf => ⟨fun hs => ⟨_, step_tick hf hs, countDown_toNat _, countDown_toNat _, rfl, onlyRegs_setPc _ _⟩,
    fun k p hs => ⟨_, step_keyInput hf hs, ?_, fun j hj => ?_, rfl, onlyRegs_setPc _ _⟩⟩
  · rw [State.inputKey_pressed, if_pos rfl]
  · rw [State.inputKey_pressed, if_neg hj]; rfl

end Sys2Proof.Machine
end

section
/-! The start of a session (10_state.md R45, 70_reset_and_hazards.md R262): the memory a loader leaves, and the values after
reset. -/

namespace Sys2Proof.Machine

/-! ### The loader's memory -/

/-- After an image written cell by cell an address reads as the one value the image gives it, or as before where that is the
value. -/
theorem Memory.read_foldl_write {m : Memory} (hwf : Memory.wf m) {cs : List Host.Cell} {a : Nat} {b : Byte}
    (hone : ∀ c, (a, c) ∈ cs → c = b) (h : Memory.read m a = b ∨ (a, b) ∈ cs) :
    Memory.read (cs.foldl (fun m c => Memory.write m c.1 c.2) m) a = b := by
  induction cs generalizing m with
  | nil => exact h.resolve_right List.not_mem_nil
  | cons d cs ih =>
    obtain ⟨k, e⟩ := d
    refine ih (Memory.write_wf k e hwf) (fun c hc => hone c (List.mem_cons_of_mem _ hc)) ?_
    rw [Memory.read_write hwf]
    by_cases hk : a = k
    · subst hk
      rw [if_pos rfl]
      exact .inl (hone e List.mem_cons_self)
    · rw [if_neg hk]
      refine h.imp_right fun hm => (List.mem_cons.1 hm).resolve_left fun he => hk ?_
      exact congrArg Prod.fst he

/-- Outside the program the loader's memory is the image's. -/
theorem Launch.memory_read_outside (l : Launch) {a : Nat} {b : Byte} (ha : a < 0x200 ∨ 0x200 + l.rom.length ≤ a)
    (hone : ∀ c, (a, c) ∈ l.image → c = b) (h : unlistedByte a = b ∨ (a, b) ∈ l.image) : Memory.read l.memory a = b := by
  rw [Launch.memory, Memory.read_writeList_outside (base := programBase) (Memory.foldl_write_wf Memory.nil_wf l.image) ha]
  exact Memory.read_foldl_write Memory.nil_wf hone h

/-- The program stands from 0x200 on in file order. -/
theorem Launch.memory_read_rom (l : Launch) {k : Nat} (hk : k < l.rom.length) : Memory.read l.memory (0x200 + k) = l.rom[k] :=
  Memory.read_writeList_inside (Memory.foldl_write_wf Memory.nil_wf l.image) hk

/-! ### The registers after reset -/

theorem State.reset_readV (k : Reg) : State.reset.readV k = 0 := Vector.getElem_replicate _

/-- Settles O55: a load is the boot of the launch, whose memory is the image with the program over it. -/
theorem loadStartsAFreshSession : Obligations.LoadStartsAFreshSession := by
  refine fun s l es hs => ⟨fun hl => ?_, fun hl => ⟨(s.setSchedule es).boot l, ?_, State.reset_readV, rfl, rfl, rfl,
    rfl, rfl, rfl, rfl, rfl, fun k hk => l.memory_read_rom hk, fun a b ha hb hone => l.memory_read_outside ha hone (.inr hb),
    fun a ha hno => l.memory_read_outside ha (fun c hc => absurd hc (hno c)) (.inl rfl), rfl, rfl, rfl, rfl, rfl, rfl⟩⟩
  · rw [step_load hs]; exact loadSession_of_not_fits hl
  · rw [step_load hs]; exact loadSession_of_fits hl

/-- Settles O56: the values of `State.reset`, the registers and the display cell by cell. -/
theorem resetValuesAreTheStatedOnes : Obligations.ResetValuesAreTheStatedOnes :=
  ⟨State.reset_readV, rfl, rfl, rfl, rfl, rfl, rfl, rfl, Display.cell_blankDisplay, fun _ => BitVec.getLsbD_zero⟩

end Sys2Proof.Machine
end

section
/-! The ports of the CORE (10_state.md R40) against the transition: the accesses of the memory port, the strobes of the
timers, the draw request, and the ports of a transition that faults. -/

namespace Sys2Proof.Machine

/-! ### The memory port -/

theorem readsFrom_length (base : Nat) (bs : List Byte) : (readsFrom base bs).length = bs.length := by
  induction bs generalizing base with
  | nil => rfl
  | cons b bs ih => exact congrArg Nat.succ (ih (base + 1))

theorem writesFrom_length (base : Nat) (bs : List Byte) : (writesFrom base bs).length = bs.length := by
  induction bs generalizing base with
  | nil => rfl
  | cons b bs ih => exact congrArg Nat.succ (ih (base + 1))

/-- No instruction accesses more than the 16 bytes of a full block transfer. -/
theorem dataLength_le (i : Instr) : dataLength i ≤ 16 := by
  cases i with
  | ldMemVx x | ldVxMem x => exact x.isLt
  | drw x y n => exact n.isLt.le
  | ldB => exact (by decide : 3 ≤ 16)
  | _ => exact Nat.zero_le 16

/-- So the last address fits in the 17 bits of `mem_addr`. -/
theorem dataAddress_bound (s : State) (i : Instr) : s.i.toNat + dataLength i ≤ 2 ^ 17 := by
  have := s.i.isLt
  have := dataLength_le i
  omega

theorem memRequests_length (s : State) (i : Instr) : (memRequests s i).length = dataLength i := by
  cases i with
  | ldB => rfl
  | ldMemVx x => exact (writesFrom_length _ _).trans (s.readVs_length x)
  | ldVxMem => exact (readsFrom_length _ _).trans (s.dataBytes_length _)
  | drw => exact (readsFrom_length _ _).trans (s.dataBytes_length _)
  | _ => rfl

/-- A read over the port is of an address of the block, and delivers the byte there. -/
theorem mem_readsFrom_dataBytes {s : State} {n : Nat} {q : MemAccess} (hn : s.i.toNat + n ≤ 2 ^ 17)
    (hq : q ∈ readsFrom s.i.toNat (s.dataBytes n)) :
    ∃ k < n, q.memAddr.toNat = s.i.toNat + k ∧ ∀ b, q.memRdata = some b → b = s.byteAt (s.i.toNat + k) := by
  obtain ⟨k, b, hk, ha, hr, -⟩ := mem_readsFrom (by rwa [State.dataBytes_length]) hq
  have hlt : k < n := by simpa using (List.getElem?_eq_some_iff.1 hk).1
  rw [s.dataBytes_getElem hlt, Option.some.injEq] at hk
  exact ⟨k, hlt, ha, fun c hc => (Option.some.inj (hr.symm.trans hc)).symm.trans hk.symm⟩

/-- A write over the port is of an address of the block, and delivers nothing. -/
theorem mem_writesFrom_block {s : State} {bs : List Byte} {q : MemAccess} (hn : s.i.toNat + bs.length ≤ 2 ^ 17)
    (hq : q ∈ writesFrom s.i.toNat bs) :
    ∃ k < bs.length, q.memAddr.toNat = s.i.toNat + k ∧ ∀ b, q.memRdata = some b → b = s.byteAt (s.i.toNat + k) := by
  obtain ⟨k, b, hk, ha, hw, -⟩ := mem_writesFrom hn hq
  refine ⟨k, (List.getElem?_eq_some_iff.1 hk).1, ha, fun c hc => ?_⟩
  cases q with
  | read => cases hw
  | write => cases hc

theorem mem_memRequests {s : State} {i : Instr} {q : MemAccess} (hq : q ∈ memRequests s i) :
    ∃ k < dataLength i, q.memAddr.toNat = s.i.toNat + k ∧ ∀ b, q.memRdata = some b → b = s.byteAt (s.i.toNat + k) := by
  have hb := dataAddress_bound s i
  cases i with
  | ldB => exact mem_writesFrom_block hb hq
  | ldMemVx x =>
    have hlen := s.readVs_length x
    obtain ⟨k, hk, h⟩ := mem_writesFrom_block (hlen.symm ▸ hb) hq
    exact ⟨k, hk.trans_eq hlen, h⟩
  | ldVxMem => exact mem_readsFrom_dataBytes hb hq
  | drw => exact mem_readsFrom_dataBytes hb hq
  | _ => cases hq

/-- The addresses of an instruction that completes exist. -/
theorem exec_fits {i : Instr} {s t : State} (h : exec i s = .next t) (h0 : 0 < dataLength i) :
    s.i.toNat + dataLength i ≤ s.cfg.memSize := by
  by_contra hlt
  cases h.symm.trans (exec_of_not_fits s h0 (Nat.lt_of_not_le hlt))

theorem exec_memory_of_storeLength_zero {i : Instr} {s t : State} (hl : storeLength i = 0) (h : exec i s = .next t) :
    t.memory = s.memory := by
  obtain ⟨bs, hlen, -, hm⟩ := exec_memory h
  rw [hm, List.length_eq_zero_iff.1 (hlen.trans hl)]; rfl

/-- Performing the accesses in order gives the memory after: the reads leave it, the writes are the block write. -/
theorem exec_memory_eq_perform {i : Instr} {s t : State} (h : exec i s = .next t) :
    t.memory = (memRequests s i).foldl MemAccess.perform s.memory := by
  have hb := dataAddress_bound s i
  cases i with
  | ldB => obtain ⟨-, rfl⟩ := execLdB_next h; exact (writesFrom_perform _ hb).symm
  | ldMemVx x =>
    obtain ⟨-, rfl⟩ := execLdMemVx_next h
    exact (writesFrom_perform _ ((s.readVs_length x).symm ▸ hb)).symm
  | ldVxMem | drw => exact (exec_memory_of_storeLength_zero rfl h).trans (readsFrom_perform _ _ _).symm
  | _ => exact exec_memory_of_storeLength_zero rfl h

/-! ### The timer ports -/

theorem dtWdata_eq_none {i : Instr} (h : ∀ x, i ≠ .ldDTVx x) (s : State) : dtWdata i s = none := by
  cases i with
  | ldDTVx x => exact absurd rfl (h x)
  | _ => rfl

theorem stWdata_eq_none {i : Instr} (h : ∀ x, i ≠ .ldSTVx x) (s : State) : stWdata i s = none := by
  cases i with
  | ldSTVx x => exact absurd rfl (h x)
  | _ => rfl

theorem dtWe_iff (i : Instr) (s : State) : dtWe i s = true ↔ ∃ x, i = .ldDTVx x := by
  cases i <;> simp [dtWe, dtWdata]

theorem stWe_iff (i : Instr) (s : State) : stWe i s = true ↔ ∃ x, i = .ldSTVx x := by
  cases i <;> simp [stWe, stWdata]

/-- The timers take what their ports carry, and keep their values where nothing is carried. -/
theorem exec_timers {i : Instr} {s t : State} (h : exec i s = .next t) :
    t.dt = (dtWdata i s).getD s.dt ∧ t.st = (stWdata i s).getD s.st := by
  constructor
  · by_cases hi : ∃ x, i = .ldDTVx x
    · obtain ⟨x, rfl⟩ := hi; cases h; rfl
    · rw [dtWdata_eq_none (not_exists.1 hi), (exec_units h).dt (not_exists.1 hi)]; rfl
  · by_cases hi : ∃ x, i = .ldSTVx x
    · obtain ⟨x, rfl⟩ := hi; cases h; rfl
    · rw [stWdata_eq_none (not_exists.1 hi), (exec_units h).st (not_exists.1 hi)]; rfl

/-! ### The display ports -/

theorem dispClear_iff (i : Instr) : dispClear i = true ↔ i = .cls := by cases i <;> simp [dispClear]

theorem drawRequest_eq_some (s : State) (i : Instr) (c : DrawCommand) :
    drawRequest s i = some c ↔ ∃ x y n, i = .drw x y n ∧ c = ⟨s.readV x, s.readV y, n, s.i⟩ := by
  cases i <;> simp [drawRequest, eq_comm]

/-- A draw request is performed on the display, and VF takes the collision bit. -/
theorem exec_drawRequest {i : Instr} {s t : State} {c : DrawCommand} (h : exec i s = .next t) (hc : drawRequest s i = some c) :
    t.disp = (c.perform s).1 ∧ t.readV VF = if (c.perform s).2 then 1 else 0 := by
  obtain ⟨x, y, n, rfl, rfl⟩ := (drawRequest_eq_some s i c).1 hc
  obtain ⟨-, rfl⟩ := execDrw_next h
  exact ⟨rfl, State.readV_writeV_advance_same _ _ _⟩

/-- Without a clear and without a draw request the display stays. -/
theorem exec_disp_of_idle {i : Instr} {s t : State} (h : exec i s = .next t) (hclear : dispClear i = false)
    (hdraw : drawRequest s i = none) : t.disp = s.disp := by
  refine (exec_units h).disp (fun hi => ?_) fun x y n hi => ?_
  · subst hi; cases hclear
  · subst hi; cases hdraw

/-! ### The statement -/

/-- `awaiting_key_out` is 16 and the index while a key is awaited (log 30). -/
theorem State.awaitingKeyOut_toNat {s : State} {x : Reg} (h : s.awaitingKey = some x) :
    s.awaitingKeyOut.toNat = 16 + x.val := by
  rw [State.awaitingKeyOut, h, BitVec.toNat_append, shiftLeft_or_nibble, nibbleOfReg_toNat]
  rfl

/-- Settles O58: the requests of an instruction that completes are on its ports; those of one that faults are not. -/
theorem portsCarryWhatATransitionDoes : Obligations.PortsCarryWhatATransitionDoes := by
  refine ⟨fun i s t h => ?_, fun i s f h => ?_, fun s => ⟨fun h => ?_, fun x h => State.awaitingKeyOut_toNat h⟩⟩
  · have hmem : memPort i s = memRequests s i := ifCompletes_next h _ _
    have hdraw : dispDraw i s = drawRequest s i := ifCompletes_next h _ _
    obtain ⟨hdt, hst⟩ := exec_timers h
    rw [hmem, hdraw, h]
    refine ⟨exec_memory_eq_perform h, fun q hq => ?_, memRequests_length s i, hdt, hst, dtWe_iff i s, stWe_iff i s,
      fun hclear => ?_, fun c hc => ?_, exec_disp_of_idle h, drawRequest_eq_some s i, rfl⟩
    · obtain ⟨k, hk, ha, hr⟩ := mem_memRequests hq
      have hfit := exec_fits h (Nat.zero_lt_of_lt hk)
      exact ⟨by omega, by omega, by omega, by cases q <;> rfl, ha.symm ▸ hr⟩
    · obtain rfl := (dispClear_iff i).1 hclear
      cases h; rfl
    · obtain ⟨hdisp, hVF⟩ := exec_drawRequest h hc
      exact ⟨hdisp, by rw [dispCollision, hdraw, hc]; rfl, hVF⟩
  · have hdraw : dispDraw i s = none := ifCompletes_fault h _ _
    refine ⟨by rw [h]; rfl, ifCompletes_fault h _ _, ?_, ?_, ?_, hdraw, by rw [dispCollision, hdraw]; rfl⟩
    · rw [Bool.eq_false_iff, ne_eq, dtWe_iff]; rintro ⟨x, rfl⟩; cases h
    · rw [Bool.eq_false_iff, ne_eq, stWe_iff]; rintro ⟨x, rfl⟩; cases h
    · rw [Bool.eq_false_iff, ne_eq, dispClear_iff]; rintro rfl; cases h
  · rw [State.awaitingKeyOut, h]

end Sys2Proof.Machine
end
